-- ==== Sys2Proof/Word.lean ====
section
/-! DEFINITION. The word types of LIMG-PXI (00_scope.md R7, R8): every value is an unsigned bit vector of a stated width. -/

namespace Sys2Proof

/-- A packed RGB565 pixel, a raster size or a coordinate: 16 bits (R7). -/
abbrev Half := BitVec 16

/-- An 8-bit channel value, or the opcode byte OP (R7, R72). -/
abbrev Byte := BitVec 8

/-- The operand word D and the response data `rsp_d`: 32 bits (R7, R70). -/
abbrev Word := BitVec 32

/-- The command word CW = OP ++ D: 40 bits (R72). -/
abbrev CmdWord := BitVec 40

end Sys2Proof
end

