-- ==== Sys2Proof/Syntax.lean ====
section
/-! DEFINITION. The commands of LIMG-PXI (30_encoding.md R83), one constructor per row of spec/opcode_table.json, with the
operand fields of the row's format (R75 to R81). -/

namespace Sys2Proof

/-- A decoded command. A field has exactly the width its format gives it, so every value of this type is encodable. -/
inductive Instr where
  /-- PLD, load a raw pixel (R110). -/
  | pld (imm16 : Half)
  /-- PRD, read the raw pixel (R111). -/
  | prd
  /-- PLDC, load a constant colour (R112); an index from 9 to 15 decodes and faults at execution (R78). -/
  | pldc (k : BitVec 4)
  /-- PEQ, compare the pixel with a value (R113). -/
  | peq (imm16 : Half)
  /-- GETR, read the red channel (R114). -/
  | getr
  /-- GETG, read the green channel (R115). -/
  | getg
  /-- GETB, read the blue channel (R116). -/
  | getb
  /-- SETR, write the red channel (R117). -/
  | setr (imm8 : Byte)
  /-- SETG, write the green channel (R118). -/
  | setg (imm8 : Byte)
  /-- SETB, write the blue channel (R119). -/
  | setb (imm8 : Byte)
  /-- PACK, pack three channels into the pixel (R120). -/
  | pack (r g b : Byte)
  /-- UNPK, unpack the pixel into three channels (R121). -/
  | unpk
  /-- IINIT, start a fresh coordinate sequence (R155). -/
  | iinit (w h : Half)
  /-- INEXT, yield the next coordinate (R156). -/
  | inext
  /-- IREM, report the exact remaining count (R157). -/
  | irem
  /-- ISKIP, skip n coordinates and yield the next (R158). -/
  | iskip (n : Word)
  /-- STAT, read the STATUS word (R180). -/
  | stat
  deriving DecidableEq, Repr

end Sys2Proof
end

