-- ==== Sys2Proof/WellFormed.lean ====
section
/-! DEFINITION. Well-formed command words, said by the mask and match of each row of spec/opcode_table.json (30_encoding.md,
introduction: a word selects a row when `CW & mask = match`). Written from the table, apart from the decoder, which follows
R89. An `Instr` needs no check of its own: its field types carry the widths. -/

namespace Sys2Proof

/-- One row of the opcode map: the mask covers OP and the row's must-be-zero bits. -/
structure OpcodeRow where
  mask : CmdWord
  pattern : CmdWord
  deriving DecidableEq, Repr

/-- The word selects the row. -/
def OpcodeRow.selects (row : OpcodeRow) (cw : CmdWord) : Bool :=
  cw &&& row.mask == row.pattern

/-- The pixel register and field rows (class 0x0). -/
def pixelRows : List OpcodeRow :=
  [ ⟨0xFFFFFF0000#40, 0x0100000000#40⟩,   -- PLD
    ⟨0xFFFFFFFFFF#40, 0x0200000000#40⟩,   -- PRD
    ⟨0xFFFFFFFFF0#40, 0x0300000000#40⟩,   -- PLDC
    ⟨0xFFFFFF0000#40, 0x0400000000#40⟩,   -- PEQ
    ⟨0xFFFFFFFFFF#40, 0x0800000000#40⟩,   -- GETR
    ⟨0xFFFFFFFFFF#40, 0x0900000000#40⟩,   -- GETG
    ⟨0xFFFFFFFFFF#40, 0x0A00000000#40⟩,   -- GETB
    ⟨0xFFFFFFFF00#40, 0x0C00000000#40⟩,   -- SETR
    ⟨0xFFFFFFFF00#40, 0x0D00000000#40⟩,   -- SETG
    ⟨0xFFFFFFFF00#40, 0x0E00000000#40⟩ ]  -- SETB

/-- The pack, raster iterator and control rows (classes 0x1, 0x2 and 0x3). -/
def otherRows : List OpcodeRow :=
  [ ⟨0xFFFF000000#40, 0x1000000000#40⟩,   -- PACK
    ⟨0xFFFFFFFFFF#40, 0x1100000000#40⟩,   -- UNPK
    ⟨0xFF00000000#40, 0x2000000000#40⟩,   -- IINIT
    ⟨0xFFFFFFFFFF#40, 0x2100000000#40⟩,   -- INEXT
    ⟨0xFFFFFFFFFF#40, 0x2200000000#40⟩,   -- IREM
    ⟨0xFF00000000#40, 0x2300000000#40⟩,   -- ISKIP
    ⟨0xFFFFFFFFFF#40, 0x3000000000#40⟩ ]  -- STAT

/-- All seventeen rows. -/
def opcodeRows : List OpcodeRow := pixelRows ++ otherRows

/-- The OP byte names a row: it is one of the seventeen defined opcodes (R83, R84). -/
def opDefined (cw : CmdWord) : Bool :=
  opcodeRows.any fun row => cw.extractLsb' 32 8 == row.pattern.extractLsb' 32 8

/-- The word selects a row: its OP is defined and its must-be-zero bits are 0 (R84, R85). -/
def wordWellFormed (cw : CmdWord) : Bool :=
  opcodeRows.any fun row => row.selects cw

end Sys2Proof
end

