-- ==== Sys2Proof/Decode.lean ====
section
/-! DEFINITION. Decoding a command word (30_encoding.md R72, R75 to R85, R89), the fault codes (60_exceptions.md R202), and
the encoder (R92). -/

namespace Sys2Proof

/-- The five faults a command can raise (60_exceptions.md R202). -/
inductive FaultCode where
  /-- OP is one of the 239 reserved values (R84). -/
  | illegalOp
  /-- A 1 in a must-be-zero bit of D (R85). -/
  | reservedOperand
  /-- PLDC with an index from 9 to 15 (R112). -/
  | badConst
  /-- The command reads P while PV = 0 (R24). -/
  | pixelUnset
  /-- INEXT, IREM or ISKIP while IV = 0 (R27). -/
  | iterUnset
  deriving DecidableEq, Repr

/-- The value recorded in FCODE (R202). -/
def faultNumber : FaultCode → BitVec 4
  | .illegalOp => 1#4
  | .reservedOperand => 2#4
  | .badConst => 3#4
  | .pixelUnset => 4#4
  | .iterUnset => 5#4

/-- What decoding answers: a command with its fields, or one of the two decode faults (R89). -/
inductive Decoded where
  | cmd (i : Instr)
  | fault (c : FaultCode)
  deriving DecidableEq, Repr

/-- The seven operand formats (R75 to R81). -/
inductive Format where
  | n | h | b | k | t | wh | w32
  deriving DecidableEq, Repr

/-- The must-be-zero mask of a format (R89). -/
def mustBeZero : Format → Word
  | .n => 0xFFFFFFFF#32
  | .h => 0xFFFF0000#32
  | .b => 0xFFFFFF00#32
  | .k => 0xFFFFFFF0#32
  | .t => 0xFF000000#32
  | .wh => 0#32
  | .w32 => 0#32

/-- OP of a command word (R72). -/
def cmdOp (cw : CmdWord) : Byte := cw.extractLsb' 32 8

/-- D of a command word (R72). -/
def cmdD (cw : CmdWord) : Word := cw.extractLsb' 0 32

/-- Format H: imm16 = D[15:0] (R76). -/
def imm16Of (d : Word) : Half := d.extractLsb' 0 16

/-- Format B: imm8 = D[7:0] (R77). -/
def imm8Of (d : Word) : Byte := d.extractLsb' 0 8

/-- Format K: k = D[3:0] (R78). -/
def constIndexOf (d : Word) : BitVec 4 := d.extractLsb' 0 4

/-- Format T: r = D[23:16], g = D[15:8], b = D[7:0] (R79), given to a command of three channels. -/
def withChannels (d : Word) (f : Byte → Byte → Byte → Instr) : Instr :=
  f (d.extractLsb' 16 8) (d.extractLsb' 8 8) (d.extractLsb' 0 8)

/-- Format WH: w = D[15:0], h = D[31:16] (R80), given to a command of a raster size. -/
def withSize (d : Word) (f : Half → Half → Instr) : Instr :=
  f (d.extractLsb' 0 16) (d.extractLsb' 16 16)

/-- The opcode map (R83): the row's format, and the command its fields make; none for a reserved OP (R84). -/
def lookupOp (op : Byte) (d : Word) : Option (Format × Instr) :=
  match op with
  | 0x01#8 => some (.h, .pld (imm16Of d))
  | 0x02#8 => some (.n, .prd)
  | 0x03#8 => some (.k, .pldc (constIndexOf d))
  | 0x04#8 => some (.h, .peq (imm16Of d))
  | 0x08#8 => some (.n, .getr)
  | 0x09#8 => some (.n, .getg)
  | 0x0A#8 => some (.n, .getb)
  | 0x0C#8 => some (.b, .setr (imm8Of d))
  | 0x0D#8 => some (.b, .setg (imm8Of d))
  | 0x0E#8 => some (.b, .setb (imm8Of d))
  | 0x10#8 => some (.t, withChannels d .pack)
  | 0x11#8 => some (.n, .unpk)
  | 0x20#8 => some (.wh, withSize d .iinit)
  | 0x21#8 => some (.n, .inext)
  | 0x22#8 => some (.n, .irem)
  | 0x23#8 => some (.w32, .iskip d)
  | 0x30#8 => some (.n, .stat)
  | _ => none

/-- Decoding, total on every OP and D (R89): the opcode first, then the must-be-zero bits. -/
def decode (op : Byte) (d : Word) : Decoded :=
  match lookupOp op d with
  | none => .fault .illegalOp
  | some (fmt, i) => if d &&& mustBeZero fmt = 0#32 then .cmd i else .fault .reservedOperand

/-- Decoding a whole command word. -/
def decodeWord (cw : CmdWord) : Decoded := decode (cmdOp cw) (cmdD cw)

/-- The opcode byte of a command (R83). -/
def opcodeOf : Instr → Byte
  | .pld _ => 0x01#8
  | .prd => 0x02#8
  | .pldc _ => 0x03#8
  | .peq _ => 0x04#8
  | .getr => 0x08#8
  | .getg => 0x09#8
  | .getb => 0x0A#8
  | .setr _ => 0x0C#8
  | .setg _ => 0x0D#8
  | .setb _ => 0x0E#8
  | .pack _ _ _ => 0x10#8
  | .unpk => 0x11#8
  | .iinit _ _ => 0x20#8
  | .inext => 0x21#8
  | .irem => 0x22#8
  | .iskip _ => 0x23#8
  | .stat => 0x30#8

/-- The operand word of a command: its fields placed as its format says, every must-be-zero bit 0 (R75 to R81, R92). -/
def operandOf : Instr → Word
  | .pld v => 0#16 ++ v
  | .prd => 0#32
  | .pldc k => 0#28 ++ k
  | .peq v => 0#16 ++ v
  | .getr => 0#32
  | .getg => 0#32
  | .getb => 0#32
  | .setr v => 0#24 ++ v
  | .setg v => 0#24 ++ v
  | .setb v => 0#24 ++ v
  | .pack r g b => 0#8 ++ (r ++ (g ++ b))
  | .unpk => 0#32
  | .iinit w h => h ++ w
  | .inext => 0#32
  | .irem => 0#32
  | .iskip n => n
  | .stat => 0#32

/-- The command word CW = OP ++ D (R72, R92). -/
def encode (i : Instr) : CmdWord := opcodeOf i ++ operandOf i

/-- The command word a row of spec/opcode_table.json numbers: the table reads CW as one number, bit 0 its least significant
bit, and every row has 40 bits; bits above `nbits` are 0. -/
def tableWord (nbits w : Nat) : CmdWord := BitVec.ofNat 40 (w % 2 ^ nbits)

/-- The command this decoder reads from a table word; none where it refuses. -/
def decodeTableWord (nbits w : Nat) : Option Instr :=
  match decodeWord (tableWord nbits w) with
  | .cmd i => some i
  | .fault _ => none

end Sys2Proof
end

