-- ==== Sys2Proof/Machine/State.lean ====
section
/-! DEFINITION. The state of LIMG-PXI as plain data: the spec's register set (10_state.md R32), the response port
(30_encoding.md R70, R71), and the host's future drives of the input ports. -/

namespace Sys2Proof.Machine

/-- Reasons the model could stop with a fault. There is none: every fault of 60_exceptions.md R202 is recorded in the state
and answered (R201, R203), and 70_reset_and_hazards.md R238 leaves no hold or stuck state. Nothing raises one (log entry 8,
safe). -/
inductive Fault where
  deriving DecidableEq, Repr

/-- Reasons the model could refuse a command. -/
inductive Refusal where
  /-- Raised only by an arm of `exec` whose command has no meaning yet; safe, since nothing is claimed of it. No arm of this
  model raises it. -/
  | notModelled (mnemonic : String)
  deriving DecidableEq, Repr

/-- One response: `rsp_err`, `rsp_f` and `rsp_d` (30_encoding.md R70, R87). -/
structure Response where
  err : Bool
  f : Bool
  d : Word
  deriving DecidableEq, Repr

/-- What the host drives on the input ports at one moment (30_encoding.md R70). -/
structure HostDrive where
  rst : Bool
  cmdValid : Bool
  cmdOp : Byte
  cmdD : Word
  rspReady : Bool
  deriving DecidableEq, Repr

/-- The machine. -/
structure State where
  /-- P, the pixel register (R21). -/
  p : Half
  /-- PV, pixel valid (R24). -/
  pv : Bool
  /-- W, the raster width (R25). -/
  w : Half
  /-- H, the raster height (R25). -/
  h : Half
  /-- X, the column of the next coordinate (R26). -/
  x : Half
  /-- Y, the row of the next coordinate (R26). -/
  y : Half
  /-- IV, iterator valid (R27). -/
  iv : Bool
  /-- FLT, a command has faulted since reset (R29). -/
  flt : Bool
  /-- FCODE, the first fault's code (R29). -/
  fcode : BitVec 4
  /-- FOP, the first faulting command's OP byte (R29). -/
  fop : Byte
  /-- The response presented and not yet delivered: `rsp_valid` is 1 exactly when there is one (30_encoding.md R71, log
  entry 6). -/
  rsp : Option Response
  /-- The host's drives of the input ports from now on, the next moment first; past the end it drives nothing. The model's
  own field (DESIGN CHOICE, log entry 5). -/
  host : List HostDrive
  deriving DecidableEq, Repr

/-- The state after reset (10_state.md R37, 70_reset_and_hazards.md R230). P, W, H, X and Y are unspecified there and 0 here
(DESIGN CHOICE, log entries 1 and 2, unsafe). -/
def State.reset : State :=
  { p := 0#16, pv := false, w := 0#16, h := 0#16, x := 0#16, y := 0#16, iv := false,
    flt := false, fcode := 0#4, fop := 0#8, rsp := none, host := [] }

end Sys2Proof.Machine
end

