-- ==== Sys2Proof/Machine/Flags.lean ====
section
/-! DEFINITION. The flags computed from the state and the STATUS word (10_state.md R30), and the compare flag of PEQ
(40_pixel_channels.md R113). No flag is held as state (R33). -/

namespace Sys2Proof.Machine

/-- A 1-bit flag as a bit. -/
def flagBit (b : Bool) : BitVec 1 := BitVec.ofBool b

/-- ITDONE: IV = 1 and Y = H (R30). -/
def State.itDone (s : State) : Bool := s.iv && s.y == s.h

/-- STATUS = 0 ++ FOP ++ FCODE ++ FLT ++ ITDONE ++ IV ++ PV (R30). -/
def State.status (s : State) : Word :=
  0#16 ++ (s.fop ++ (s.fcode ++ (flagBit s.flt ++ (flagBit s.itDone ++ (flagBit s.iv ++ flagBit s.pv)))))

/-- eq of PEQ: all 16 bits compared (R113). -/
def pixelEq (p imm16 : Half) : Bool := p == imm16

end Sys2Proof.Machine
end

