-- ==== Sys2Proof/Config.lean ====
section
/-! DEFINITION. What is fixed for one LIMG-PXI and is no state (10_state.md R36): the open entries of the constant-colour table.
They are a parameter of the step: `execWith`, `performWith` and `stepWith` take a ColourTable, and the fixed names `exec`,
`perform` and `step` are those at `Config.colours`. The table's lookup is `constColour` in Machine/Operands.lean. -/

namespace Sys2Proof

/-- The entries of the constant-colour table that its source does not fix (40_pixel_channels.md R104, 93_implementation_defined.md
U10, U11): four parameters with the defaults of 92_eei_decisions.md D17, PRESUMED (K1 to K4; log entry 3), and `GRAY_VALUE`, a
parameter with no default. -/
structure ColourTable where
  /-- CONST[0]. -/
  black : Half := 0x0000#16
  /-- CONST[4]. -/
  magenta : Half := 0xF81F#16
  /-- CONST[5]. -/
  cyan : Half := 0x07FF#16
  /-- CONST[6]. -/
  yellow : Half := 0xFFE0#16
  /-- CONST[7], `GRAY_VALUE`. -/
  gray : Half
  deriving DecidableEq, Repr

namespace Config

/-- `GRAY_VALUE` of the table that `exec` and `step` run with. It has no body, so no proof can assume any value of it (log
entry 4, safe). -/
opaque grayValue : Half

/-- The table that `exec` and `step` run with: the defaults of D17, and the open `GRAY_VALUE` (log entries 3 and 4). -/
def colours : ColourTable := { gray := grayValue }

end Config

end Sys2Proof
end

