-- ==== Sys2Proof/Machine/Operands.lean ====
section
/-! DEFINITION. The helper functions of the two units: fields, expansion, truncation and splice of a pixel
(40_pixel_channels.md R100 to R102), the constant-colour table (R104), and the raster arithmetic (41_raster_iterator.md R150 to
R153), in exact naturals as 00_scope.md R10 says. -/

namespace Sys2Proof.Machine

/-- fR(p) = p[15:11] (R100). -/
def fR (p : Half) : BitVec 5 := p.extractLsb' 11 5

/-- fG(p) = p[10:5] (R100). -/
def fG (p : Half) : BitVec 6 := p.extractLsb' 5 6

/-- fB(p) = p[4:0] (R100). -/
def fB (p : Half) : BitVec 5 := p.extractLsb' 0 5

/-- withR(p, f5) = f5 ++ p[10:0] (R100). -/
def withR (p : Half) (f5 : BitVec 5) : Half := f5 ++ p.extractLsb' 0 11

/-- withG(p, f6) = p[15:11] ++ f6 ++ p[4:0] (R100). -/
def withG (p : Half) (f6 : BitVec 6) : Half := p.extractLsb' 11 5 ++ (f6 ++ p.extractLsb' 0 5)

/-- withB(p, f5) = p[15:5] ++ f5 (R100). -/
def withB (p : Half) (f5 : BitVec 5) : Half := p.extractLsb' 5 11 ++ f5

/-- exp5(v) = v ++ v[4:2], bit replication (R101). -/
def exp5 (v : BitVec 5) : Byte := v ++ v.extractLsb' 2 3

/-- exp6(v) = v ++ v[5:4], bit replication (R101). -/
def exp6 (v : BitVec 6) : Byte := v ++ v.extractLsb' 4 2

/-- trunc5(u) = u[7:3]; it never rounds (R102, 90_conflicts.md C2). -/
def trunc5 (u : Byte) : BitVec 5 := u.extractLsb' 3 5

/-- trunc6(u) = u[7:2]; it never rounds (R102, 90_conflicts.md C2). -/
def trunc6 (u : Byte) : BitVec 6 := u.extractLsb' 2 6

/-- The pixel three channels pack into (R120). -/
def packPixel (r g b : Byte) : Half := trunc5 r ++ (trunc6 g ++ trunc5 b)

/-- CONST[k] (R104): nine entries in the source's listing order, the source's own four fixed and the others from the table; none
for k from 9 to 15. -/
def constColour (table : ColourTable) (k : BitVec 4) : Option Half :=
  match k with
  | 0#4 => some table.black
  | 1#4 => some 0xF800#16
  | 2#4 => some 0x07E0#16
  | 3#4 => some 0x001F#16
  | 4#4 => some table.magenta
  | 5#4 => some table.cyan
  | 6#4 => some table.yellow
  | 7#4 => some table.gray
  | 8#4 => some 0xFFFF#16
  | _ => none

/-- done(W, X, Y) = Y * W + X (R150). -/
def rasterDone (w x y : Nat) : Nat := y * w + x

/-- remaining(W, H, X, Y) = W * H - done (R151). -/
def rasterRemaining (w h x y : Nat) : Nat := w * h - rasterDone w x y

/-- adv(x, y): one coordinate on, wrapping to the next row at the width (R152). -/
def rasterAdvance (w x y : Nat) : Nat × Nat := if x + 1 = w then (0, y + 1) else (x + 1, y)

/-- coord(off) = (off mod W, off div W), used with W > 0 only (R153). -/
def rasterCoord (w off : Nat) : Nat × Nat := (off % w, off / w)

/-- Y after IINIT: the terminal row for width 0, else 0 (R155, 90_conflicts.md C3). -/
def startRow (w h : Half) : Half := if w = 0#16 then h else 0#16

/-- A yielded coordinate as response data: y in [31:16], x in [15:0] (30_encoding.md R87). -/
def coordData (x y : Half) : Word := y ++ x

end Sys2Proof.Machine
end

