-- ==== Sys2Proof/Machine/Ops.lean ====
section
/-! DEFINITION. The named operations every meaning is made of: register writes, responses (30_encoding.md R87, R88), raising a
fault (60_exceptions.md R201, R203), the halted block (R205), the order of checks (R204), and the port's own moves (R71, R230). -/

namespace Sys2Proof.Machine

/-- `respond(d, f)`: a response with error 0 (00_scope.md R11). -/
def State.respond (s : State) (d : Word) (f : Bool) : State := { s with rsp := some ⟨false, f, d⟩ }

/-- The error response: `rsp_err` = 1, `rsp_f` = 0, `rsp_d` = 0 (60_exceptions.md R203). -/
def State.respondError (s : State) : State := { s with rsp := some ⟨true, false, 0#32⟩ }

/-- `respond(0, 0)`, the answer of a command that only writes, and the answer None (30_encoding.md R87, R88). -/
def State.respondZero (s : State) : State := s.respond 0#32 false

/-- The answer Some((x, y)) (R87, R88). -/
def State.respondCoord (s : State) (x y : Half) : State := s.respond (coordData x y) true

/-- Write the whole pixel and set PV (10_state.md R24). -/
def State.loadPixel (s : State) (v : Half) : State := { s with p := v, pv := true }

/-- Write the pixel, PV kept: what SETR, SETG and SETB do (R23). -/
def State.setPixel (s : State) (v : Half) : State := { s with p := v }

/-- Start a fresh coordinate sequence (41_raster_iterator.md R155). -/
def State.startRaster (s : State) (w h : Half) : State :=
  { s with w := w, h := h, x := 0#16, y := startRow w h, iv := true }

/-- Write X and Y from exact naturals; under INV both fit 16 bits (R152, R164, log entry 14). -/
def State.moveTo (s : State) (xy : Nat × Nat) : State :=
  { s with x := BitVec.ofNat 16 xy.1, y := BitVec.ofNat 16 xy.2 }

/-- done of the iterator's position (R150). -/
def State.done (s : State) : Nat := rasterDone s.w.toNat s.x.toNat s.y.toNat

/-- remaining of the iterator (R151). -/
def State.remaining (s : State) : Nat := rasterRemaining s.w.toNat s.h.toNat s.x.toNat s.y.toNat

/-- Yield the coordinate (x, y) and leave the iterator one past it (R152, R156, R158). -/
def State.yieldAt (s : State) (xy : Nat × Nat) : State :=
  (s.moveTo (rasterAdvance s.w.toNat xy.1 xy.2)).respondCoord (BitVec.ofNat 16 xy.1) (BitVec.ofNat 16 xy.2)

/-- TAKING A FAULT, the one operation of every faulting command: record it in FLT, FCODE and FOP, and answer with the error
response (60_exceptions.md R201, R203). No other register changes (R206). There is no return: only reset clears it (R207). -/
def State.raise (s : State) (op : Byte) (c : FaultCode) : State :=
  { s with flt := true, fcode := faultNumber c, fop := op }.respondError

/-- What a halted block does with a command: STAT responds STATUS, every other OP gets the error response, and nothing is
recorded (60_exceptions.md R204, R205). -/
def State.haltedAnswer (s : State) (op : Byte) : State :=
  if op = 0x30#8 then s.respond s.status false else s.respondError

/-- The first check of R204: a halted block answers as halted, a running one goes on. -/
def State.whenRunning (s : State) (op : Byte) (go : State → State) : State :=
  if s.flt then s.haltedAnswer op else go s

/-- A command that reads P: PIXEL_UNSET when PV = 0 (R204, 10_state.md R24). -/
def State.whenPixel (s : State) (op : Byte) (go : State → State) : State :=
  s.whenRunning op fun s => if s.pv then go s else s.raise op .pixelUnset

/-- A command that reads the iterator: ITER_UNSET when IV = 0 (R204, 10_state.md R27). -/
def State.whenIter (s : State) (op : Byte) (go : State → State) : State :=
  s.whenRunning op fun s => if s.iv then go s else s.raise op .iterUnset

/-- A word that decodes to a fault: raised unless the block is halted (R204). -/
def State.refuseWord (s : State) (op : Byte) (c : FaultCode) : State :=
  s.whenRunning op fun s => s.raise op c

/-- `cmd_ready`: no response is outstanding (30_encoding.md R71). -/
def State.cmdReady (s : State) : Bool := s.rsp.isNone

/-- `rsp_valid`: a response is presented (R71). -/
def State.rspValid (s : State) : Bool := s.rsp.isSome

/-- The response is delivered, and `cmd_ready` is asserted again (R71). -/
def State.deliver (s : State) : State := { s with rsp := none }

/-- Reset: every register as `State.reset` has it, an undelivered response discarded; the host's later drives are its own
(70_reset_and_hazards.md R230, R231). -/
def State.resetBlock (s : State) : State := { State.reset with host := s.host }

end Sys2Proof.Machine
end

