-- ==== Sys2Proof/Machine/Control.lean ====
section
/-! DEFINITION. The meaning of the control command STAT (42_control.md R180, R181). -/

namespace Sys2Proof.Machine

/-- STAT (R180): STATUS, in the running block and, by the halted answer of R205, in the halted one. -/
def execStat (s : State) : Host.Outcome State Fault Refusal :=
  .next (s.whenRunning 0x30#8 fun s => s.respond s.status false)

end Sys2Proof.Machine
end

