-- ==== Sys2Proof/Machine/Pixel.lean ====
section
/-! DEFINITION. The meanings of the pixel unit's commands (40_pixel_channels.md R110 to R121). Every one answers a next state;
a fault of 60_exceptions.md R202 is taken, not a stop. -/

namespace Sys2Proof.Machine

/-- PLD (R110). -/
def execPld (imm16 : Half) (s : State) : Host.Outcome State Fault Refusal :=
  .next (s.whenRunning 0x01#8 fun s => (s.loadPixel imm16).respondZero)

/-- PRD (R111). -/
def execPrd (s : State) : Host.Outcome State Fault Refusal :=
  .next (s.whenPixel 0x02#8 fun s => s.respond (s.p.setWidth 32) false)

/-- PLDC (R112) with the constant-colour table as its argument (10_state.md R36): BAD_CONST for an index with no entry. -/
def execPldcWith (table : ColourTable) (k : BitVec 4) (s : State) : Host.Outcome State Fault Refusal :=
  .next (s.whenRunning 0x03#8 fun s =>
    match constColour table k with
    | none => s.raise 0x03#8 .badConst
    | some v => (s.loadPixel v).respondZero)

/-- PLDC with the table `exec` runs with (log entry 4). -/
def execPldc (k : BitVec 4) (s : State) : Host.Outcome State Fault Refusal := execPldcWith Config.colours k s

/-- PEQ (R113). -/
def execPeq (imm16 : Half) (s : State) : Host.Outcome State Fault Refusal :=
  .next (s.whenPixel 0x04#8 fun s =>
    s.respond ((flagBit (pixelEq s.p imm16)).setWidth 32) (pixelEq s.p imm16))

/-- GETR (R114). -/
def execGetr (s : State) : Host.Outcome State Fault Refusal :=
  .next (s.whenPixel 0x08#8 fun s => s.respond ((exp5 (fR s.p)).setWidth 32) false)

/-- GETG (R115). -/
def execGetg (s : State) : Host.Outcome State Fault Refusal :=
  .next (s.whenPixel 0x09#8 fun s => s.respond ((exp6 (fG s.p)).setWidth 32) false)

/-- GETB (R116). -/
def execGetb (s : State) : Host.Outcome State Fault Refusal :=
  .next (s.whenPixel 0x0A#8 fun s => s.respond ((exp5 (fB s.p)).setWidth 32) false)

/-- SETR (R117). -/
def execSetr (imm8 : Byte) (s : State) : Host.Outcome State Fault Refusal :=
  .next (s.whenPixel 0x0C#8 fun s => (s.setPixel (withR s.p (trunc5 imm8))).respondZero)

/-- SETG (R118). -/
def execSetg (imm8 : Byte) (s : State) : Host.Outcome State Fault Refusal :=
  .next (s.whenPixel 0x0D#8 fun s => (s.setPixel (withG s.p (trunc6 imm8))).respondZero)

/-- SETB (R119). -/
def execSetb (imm8 : Byte) (s : State) : Host.Outcome State Fault Refusal :=
  .next (s.whenPixel 0x0E#8 fun s => (s.setPixel (withB s.p (trunc5 imm8))).respondZero)

/-- PACK (R120): the previous P is not read, so PV is not checked. -/
def execPack (r g b : Byte) (s : State) : Host.Outcome State Fault Refusal :=
  .next (s.whenRunning 0x10#8 fun s => (s.loadPixel (packPixel r g b)).respondZero)

/-- UNPK (R121). -/
def execUnpk (s : State) : Host.Outcome State Fault Refusal :=
  .next (s.whenPixel 0x11#8 fun s =>
    s.respond (0#8 ++ (exp5 (fR s.p) ++ (exp6 (fG s.p) ++ exp5 (fB s.p)))) false)

end Sys2Proof.Machine
end

