-- ==== Sys2Proof/Machine/Raster.lean ====
section
/-! DEFINITION. The meanings of the raster iterator's commands (41_raster_iterator.md R155 to R158). -/

namespace Sys2Proof.Machine

/-- IINIT (R155): it raises no fault at all. -/
def execIinit (w h : Half) (s : State) : Host.Outcome State Fault Refusal :=
  .next (s.whenRunning 0x20#8 fun s => (s.startRaster w h).respondZero)

/-- INEXT (R156): the coordinate at (X, Y), or None in the terminal state. -/
def execInext (s : State) : Host.Outcome State Fault Refusal :=
  .next (s.whenIter 0x21#8 fun s =>
    if s.y < s.h then s.yieldAt (s.x.toNat, s.y.toNat) else s.respondZero)

/-- IREM (R157). -/
def execIrem (s : State) : Host.Outcome State Fault Refusal :=
  .next (s.whenIter 0x22#8 fun s => s.respond (BitVec.ofNat 32 s.remaining) false)

/-- ISKIP (R158): the threshold is `remaining <= n` (90_conflicts.md C1). -/
def execIskip (n : Word) (s : State) : Host.Outcome State Fault Refusal :=
  .next (s.whenIter 0x23#8 fun s =>
    if s.remaining ≤ n.toNat then (s.moveTo (0, s.h.toNat)).respondZero
    else s.yieldAt (rasterCoord s.w.toNat (s.done + n.toNat)))

end Sys2Proof.Machine
end

