-- ==== Sys2Proof/Machine/Dispatch.lean ====
section
/-! DEFINITION. One arm per command: `exec i s` performs the command at s, the halted check and the value checks of
60_exceptions.md R204 included, and presents its response. -/

namespace Sys2Proof.Machine

def exec (i : Instr) (s : State) : Host.Outcome State Fault Refusal :=
  match i with
  -- pixel unit
  | .pld imm16 => Sys2Proof.Machine.execPld imm16 s
  | .prd => Sys2Proof.Machine.execPrd s
  | .pldc k => Sys2Proof.Machine.execPldc k s
  | .peq imm16 => Sys2Proof.Machine.execPeq imm16 s
  | .getr => Sys2Proof.Machine.execGetr s
  | .getg => Sys2Proof.Machine.execGetg s
  | .getb => Sys2Proof.Machine.execGetb s
  | .setr imm8 => Sys2Proof.Machine.execSetr imm8 s
  | .setg imm8 => Sys2Proof.Machine.execSetg imm8 s
  | .setb imm8 => Sys2Proof.Machine.execSetb imm8 s
  | .pack r g b => Sys2Proof.Machine.execPack r g b s
  | .unpk => Sys2Proof.Machine.execUnpk s
  -- raster iterator unit
  | .iinit w h => Sys2Proof.Machine.execIinit w h s
  | .inext => Sys2Proof.Machine.execInext s
  | .irem => Sys2Proof.Machine.execIrem s
  | .iskip n => Sys2Proof.Machine.execIskip n s
  -- control
  | .stat => Sys2Proof.Machine.execStat s

end Sys2Proof.Machine
end

