-- ==== Sys2Proof/Machine/Port.lean ====
section
/-! DEFINITION. The command interface (30_encoding.md R70, R71): performing an accepted word, and what the block does in one
moment of the host's drive. In Machine/ and not in Step.lean, so that a repair may mend it. -/

namespace Sys2Proof.Machine

/-- A command with the constant-colour table as an argument (10_state.md R36). PLDC is the only one that reads the table, so the
others are `exec`; `exec` is this at `Config.colours`. -/
def execWith (table : ColourTable) (i : Instr) (s : State) : Host.Outcome State Fault Refusal :=
  match i with
  | .pldc k => execPldcWith table k s
  | .pld _ | .prd | .peq _ | .getr | .getg | .getb | .setr _ | .setg _ | .setb _ | .pack _ _ _ | .unpk | .iinit _ _
  | .inext | .irem | .iskip _ | .stat => exec i s

/-- Performing a command word, `execute(OP, D)` of 60_exceptions.md R204. -/
def performWith (table : ColourTable) (op : Byte) (d : Word) (s : State) : Host.Outcome State Fault Refusal :=
  match decode op d with
  | .cmd i => execWith table i s
  | .fault c => .next (s.refuseWord op c)

/-- Performing a command word with the table `exec` runs with. -/
def perform (op : Byte) (d : Word) (s : State) : Host.Outcome State Fault Refusal := performWith Config.colours op d s

/-- One moment of the host's drive. Reset has priority (70_reset_and_hazards.md R230, R231, log entry 9). A command is accepted
only while `cmd_ready` = 1; while it is 0 the driven word has no effect (R237, log entry 7), and the outstanding response is
delivered if the host is ready for it (R71). -/
def onDriveWith (table : ColourTable) (m : HostDrive) (s : State) : Host.Outcome State Fault Refusal :=
  if m.rst then .next s.resetBlock
  else if s.cmdReady then
    if m.cmdValid then performWith table m.cmdOp m.cmdD s else .next s
  else if m.rspReady then .next s.deliver else .next s

/-- One step: the next moment of the host's drive; with nothing driven the block holds its state (R71, R217). -/
def stepPortWith (table : ColourTable) (s : State) : Host.Outcome State Fault Refusal :=
  match s.host with
  | [] => .next s
  | m :: later => onDriveWith table m { s with host := later }

/-- The host presents a command word for one moment and is not yet ready for the response. -/
def presentCommand (op : Byte) (d : Word) : HostDrive :=
  { rst := false, cmdValid := true, cmdOp := op, cmdD := d, rspReady := false }

/-- The state whose next moment presents the word: put before the host's other drives, with no response outstanding, so that
`cmd_ready` is 1 and the word is accepted. -/
def State.withCommand (s : State) (cw : CmdWord) : State :=
  { s with rsp := none, host := presentCommand (cmdOp cw) (cmdD cw) :: s.host }

end Sys2Proof.Machine
end

