-- ==== Sys2Proof/Machine/Step.lean ====
section
/-! DEFINITION. The step of the machine: one moment of the host's drive of the ports (Machine/Port.lean). One step per accepted
command, one per reset (10_state.md R20, 70_reset_and_hazards.md R239); a moment that only delivers a response, or in which the
host waits, is a step that writes no register (log entry 6). -/

namespace Sys2Proof.Machine

/-- One step of the LIMG-PXI that has this constant-colour table. The table is an argument of the step: nothing writes it, and
reset does not change it (10_state.md R36). -/
def stepWith (table : ColourTable) (s : State) : Host.Outcome State Fault Refusal := stepPortWith table s

/-- One step, with the table `exec` runs with (log entries 3 and 4). -/
def step (s : State) : Host.Outcome State Fault Refusal := stepWith Config.colours s

/-- The state whose very next step runs the table word as a command (log entry 5). -/
def State.withFetchWord (s : State) (nbits w : Nat) : State := s.withCommand (tableWord nbits w)

end Sys2Proof.Machine
end

