-- ==== Sys2Proof/Machine/Assembler.lean ====
section
/-! DEFINITION. The assembler of 30_encoding.md R90 to R92: one line of text to one command word. Text is a list of characters.
Lexical points that R90 leaves open are DESIGN CHOICEs (log entry 13). -/

namespace Sys2Proof.Machine

/-- What a line may begin with: a command's mnemonic (R90) or a pseudo-instruction or directive (R91). -/
inductive Mnemonic where
  | pld | prd | pldc | peq | getr | getg | getb | setr | setg | setb | pack | unpk
  | iinit | inext | irem | iskip | stat | pclr | inth | word
  deriving DecidableEq, Repr

/-- An operand: a number, or a colour's name, which stands for its index (R90, R104). -/
inductive Operand where
  | num (n : Nat)
  | colour (k : BitVec 4)
  deriving DecidableEq, Repr

/-- A line with a mnemonic. -/
structure AsmLine where
  mnemonic : Mnemonic
  operands : List Operand
  deriving DecidableEq, Repr

/-- The value as a field of the given width, or a rejection where it does not fit (R90). -/
def fitField (width n : Nat) : Option (BitVec width) :=
  if n < 2 ^ width then some (BitVec.ofNat width n) else none

/-- The command a line names, with its operands checked against their fields (R90, R91); none for `.word` and for a line the
assembler rejects. -/
def asmCommand (l : AsmLine) : Option Instr :=
  match l.mnemonic, l.operands with
  | .pld, [.num n] => (fitField 16 n).map .pld
  | .prd, [] => some .prd
  | .pldc, [.num n] => (fitField 4 n).map .pldc
  | .pldc, [.colour k] => some (.pldc k)
  | .peq, [.num n] => (fitField 16 n).map .peq
  | .getr, [] => some .getr
  | .getg, [] => some .getg
  | .getb, [] => some .getb
  | .setr, [.num n] => (fitField 8 n).map .setr
  | .setg, [.num n] => (fitField 8 n).map .setg
  | .setb, [.num n] => (fitField 8 n).map .setb
  | .pack, [.num r, .num g, .num b] =>
    (fitField 8 r).bind fun r => (fitField 8 g).bind fun g => (fitField 8 b).map fun b => .pack r g b
  | .unpk, [] => some .unpk
  | .iinit, [.num w, .num h] => (fitField 16 w).bind fun w => (fitField 16 h).map fun h => .iinit w h
  | .inext, [] => some .inext
  | .irem, [] => some .irem
  | .iskip, [.num n] => (fitField 32 n).map .iskip
  | .stat, [] => some .stat
  | .pclr, [] => some (.pld 0#16)
  | .inth, [.num n] => (fitField 32 n).map .iskip
  | _, _ => none

/-- The word of `.word op, d`: op ++ d, unchecked (R91); a value wider than its half of the word is no word. -/
def asmRawWord (l : AsmLine) : Option CmdWord :=
  match l.mnemonic, l.operands with
  | .word, [.num op, .num d] => (fitField 8 op).bind fun op => (fitField 32 d).map fun d => op ++ d
  | _, _ => none

/-- The command word of a line (R92), or a rejection. -/
def assemble (l : AsmLine) : Option CmdWord :=
  match asmCommand l with
  | some i => some (encode i)
  | none => asmRawWord l

/-- Mnemonics (R90), pseudo-instructions and the directive (R91), as they are written. Like a mnemonic, PCLR, INTH and .word are
matched in any letter case: R90 says so of mnemonics and colour names only (DESIGN CHOICE, log entry 13, unsafe). -/
def mnemonicNames : List (List Char × Mnemonic) :=
  [ (['P', 'L', 'D'], .pld), (['P', 'R', 'D'], .prd), (['P', 'L', 'D', 'C'], .pldc), (['P', 'E', 'Q'], .peq),
    (['G', 'E', 'T', 'R'], .getr), (['G', 'E', 'T', 'G'], .getg), (['G', 'E', 'T', 'B'], .getb),
    (['S', 'E', 'T', 'R'], .setr), (['S', 'E', 'T', 'G'], .setg), (['S', 'E', 'T', 'B'], .setb),
    (['P', 'A', 'C', 'K'], .pack), (['U', 'N', 'P', 'K'], .unpk) ] ++
  [ (['I', 'I', 'N', 'I', 'T'], .iinit), (['I', 'N', 'E', 'X', 'T'], .inext), (['I', 'R', 'E', 'M'], .irem),
    (['I', 'S', 'K', 'I', 'P'], .iskip), (['S', 'T', 'A', 'T'], .stat), (['P', 'C', 'L', 'R'], .pclr),
    (['I', 'N', 'T', 'H'], .inth), (['.', 'W', 'O', 'R', 'D'], .word) ]

/-- Colour names and their indices (R90, R104). -/
def colourNames : List (List Char × BitVec 4) :=
  [ (['B', 'L', 'A', 'C', 'K'], 0#4), (['R', 'E', 'D'], 1#4), (['G', 'R', 'E', 'E', 'N'], 2#4),
    (['B', 'L', 'U', 'E'], 3#4), (['M', 'A', 'G', 'E', 'N', 'T', 'A'], 4#4), (['C', 'Y', 'A', 'N'], 5#4),
    (['Y', 'E', 'L', 'L', 'O', 'W'], 6#4), (['G', 'R', 'A', 'Y'], 7#4), (['W', 'H', 'I', 'T', 'E'], 8#4) ]

/-- White space within a line. -/
def isBlank (c : Char) : Bool := c == ' ' || c == '\t' || c == '\r'

/-- A name is looked up in capitals: mnemonics and colour names are case-insensitive (R90), and so are the names of R91 (DESIGN
CHOICE, log entry 13, unsafe). -/
def lookupName {α : Type} (names : List (List Char × α)) (text : List Char) : Option α :=
  (names.find? fun e => e.1 == text.map Char.toUpper).map fun e => e.2

/-- White space at both ends dropped. -/
def trimBlanks (text : List Char) : List Char :=
  ((text.dropWhile isBlank).reverse.dropWhile isBlank).reverse

/-- `;` starts a comment (R90). -/
def stripComment (text : List Char) : List Char := text.takeWhile fun c => c != ';'

/-- The pieces between commas. -/
def splitCommas : List Char → List (List Char)
  | [] => [[]]
  | c :: cs =>
    match splitCommas cs with
    | [] => [[c]]
    | piece :: rest => if c == ',' then [] :: piece :: rest else (c :: piece) :: rest

/-- A digit's value, decimal or hexadecimal in either case. -/
def digitValue (c : Char) : Option Nat :=
  if '0' ≤ c ∧ c ≤ '9' then some (c.toNat - '0'.toNat)
  else if 'a' ≤ c ∧ c ≤ 'f' then some (c.toNat - 'a'.toNat + 10)
  else if 'A' ≤ c ∧ c ≤ 'F' then some (c.toNat - 'A'.toNat + 10)
  else none

/-- The digits of a number in a base, most significant first, after the value read so far. -/
def readDigits (base : Nat) (sofar : Nat) : List Char → Option Nat
  | [] => some sofar
  | c :: cs => (digitValue c).bind fun v => if v < base then readDigits base (sofar * base + v) cs else none

/-- A number with at least one digit. -/
def readNumberIn (base : Nat) (text : List Char) : Option Nat :=
  match text with
  | [] => none
  | c :: cs => readDigits base 0 (c :: cs)

/-- Decimal, `0x` hexadecimal or `0b` binary (R90). -/
def readNumber (text : List Char) : Option Nat :=
  match text with
  | '0' :: 'x' :: digits => readNumberIn 16 digits
  | '0' :: 'b' :: digits => readNumberIn 2 digits
  | _ => readNumberIn 10 text

/-- One operand: a number or a colour name. -/
def readOperand (text : List Char) : Option Operand :=
  match readNumber text with
  | some n => some (.num n)
  | none => (lookupName colourNames text).map .colour

/-- The operands after a mnemonic, separated by commas. -/
def readOperands (text : List Char) : Option (List Operand) :=
  match trimBlanks text with
  | [] => some []
  | c :: cs => (splitCommas (c :: cs)).mapM fun piece => readOperand (trimBlanks piece)

/-- One line of text (R90): none is a syntax error, `some none` a line with no command on it. -/
def readLine (text : List Char) : Option (Option AsmLine) :=
  match trimBlanks (stripComment text) with
  | [] => some none
  | c :: cs =>
    (lookupName mnemonicNames ((c :: cs).takeWhile fun c => !isBlank c)).bind fun m =>
      (readOperands ((c :: cs).dropWhile fun c => !isBlank c)).map fun os => some ⟨m, os⟩

/-- The command words of a listing, one line each (R90); none if any line is rejected. -/
def assembleLines : List (List Char) → Option (List CmdWord)
  | [] => some []
  | line :: rest =>
    (readLine line).bind fun l =>
      match l with
      | none => assembleLines rest
      | some l => (assemble l).bind fun cw => (assembleLines rest).map fun cws => cw :: cws

end Sys2Proof.Machine
end

