-- ==== Sys2Proof/Safety.lean ====
section
/-! DEFINITION. The terms in which statements are made: the invariant of the machine (10_state.md R28, R29, 30_encoding.md R88),
the states a command leaves as the spec gives them, which fault a word meets (60_exceptions.md R202, R204), runs of commands
(70_reset_and_hazards.md R240), and when two states look the same to the host (10_state.md R37). -/

namespace Sys2Proof.Machine

/-- INV(W, H, X, Y) of 10_state.md R28. -/
abbrev rasterInv (w h x y : Half) : Prop := y ≤ h ∧ (y < h → x < w) ∧ (y = h → x = 0#16)

/-- R28: INV holds whenever IV = 1. -/
abbrev State.IterInv (s : State) : Prop := s.iv = true → rasterInv s.w s.h s.x s.y

/-- R29 and 60_exceptions.md R202: FCODE and FOP are 0 while FLT = 0, and FCODE is one of 1 to 5 while FLT = 1. -/
abbrev State.FaultInv (s : State) : Prop :=
  (s.flt = false → s.fcode = 0#4 ∧ s.fop = 0#8) ∧ (s.flt = true → 1#4 ≤ s.fcode ∧ s.fcode ≤ 5#4)

/-- An error response is presented by a halted block only, with flag 0 and data 0 (30_encoding.md R88, 60_exceptions.md R203). -/
def State.responseOk (s : State) : Bool :=
  match s.rsp with
  | none => true
  | some r => !r.err || (s.flt && !r.f && r.d == 0#32)

/-- The invariant every step keeps. -/
abbrev State.Inv (s : State) : Prop := s.IterInv ∧ s.FaultInv ∧ s.responseOk = true

/-- The state with a normal response presented, nothing else changed (30_encoding.md R87). -/
def State.answering (s : State) (d : Word) (f : Bool) : State := { s with rsp := some ⟨false, f, d⟩ }

/-- The state with the error response presented, nothing else changed (60_exceptions.md R203). -/
def State.erroring (s : State) : State := { s with rsp := some ⟨true, false, 0#32⟩ }

/-- The state a fault leaves: FLT, FCODE, FOP and the error response, nothing else changed (60_exceptions.md R201, R203, R206). -/
def State.faulted (s : State) (code : BitVec 4) (op : Byte) : State :=
  { s with flt := true, fcode := code, fop := op, rsp := some ⟨true, false, 0#32⟩ }

/-- The 239 reserved OP values, by the ranges of 30_encoding.md R84. -/
def reservedOp (op : Byte) : Bool :=
  op == 0x00#8 || (0x05#8 ≤ op && op ≤ 0x07#8) || op == 0x0B#8 || op == 0x0F#8 ||
  (0x12#8 ≤ op && op ≤ 0x1F#8) || (0x24#8 ≤ op && op ≤ 0x2F#8) || 0x31#8 ≤ op

/-- A 1 in a must-be-zero bit of the command's format (R75 to R81, R83, R85). -/
def reservedBitSet (op : Byte) (d : Word) : Bool :=
  if op ∈ [0x02#8, 0x08#8, 0x09#8, 0x0A#8, 0x11#8, 0x21#8, 0x22#8, 0x30#8] then d != 0#32
  else if op ∈ [0x01#8, 0x04#8] then d.extractLsb' 16 16 != 0#16
  else if op ∈ [0x0C#8, 0x0D#8, 0x0E#8] then d.extractLsb' 8 24 != 0#24
  else if op = 0x03#8 then d.extractLsb' 4 28 != 0#28
  else if op = 0x10#8 then d.extractLsb' 24 8 != 0#8
  else false

/-- The commands that read P (60_exceptions.md R202 row 4). -/
def pixelReaders : List Byte :=
  [0x02#8, 0x04#8, 0x08#8, 0x09#8, 0x0A#8, 0x0C#8, 0x0D#8, 0x0E#8, 0x11#8]

/-- The iterator commands other than IINIT (R202 row 5). -/
def iterReaders : List Byte := [0x21#8, 0x22#8, 0x23#8]

/-- The code of the fault a word raises in a running block, 0 for none: the causes of R202 in the order of R204. -/
def expectedFault (op : Byte) (d : Word) (pv iv : Bool) : BitVec 4 :=
  if reservedOp op then 1#4
  else if reservedBitSet op d then 2#4
  else if op = 0x03#8 ∧ 8#4 < d.extractLsb' 0 4 then 3#4
  else if op ∈ pixelReaders ∧ pv = false then 4#4
  else if op ∈ iterReaders ∧ iv = false then 5#4
  else 0#4

/-- The pixel unit's commands (40_pixel_channels.md). -/
def isPixelCommand : Instr → Bool
  | .pld _ => true
  | .prd => true
  | .pldc _ => true
  | .peq _ => true
  | .getr => true
  | .getg => true
  | .getb => true
  | .setr _ => true
  | .setg _ => true
  | .setb _ => true
  | .pack _ _ _ => true
  | .unpk => true
  | .iinit _ _ => false
  | .inext => false
  | .irem => false
  | .iskip _ => false
  | .stat => false

/-- The raster iterator's commands (41_raster_iterator.md). -/
def isIterCommand (i : Instr) : Bool := !isPixelCommand i && i != .stat

/-- The commands that return a value without changing state (20_memory.md R55). -/
def isReadCommand : Instr → Bool
  | .pld _ => false
  | .prd => true
  | .pldc _ => false
  | .peq _ => true
  | .getr => true
  | .getg => true
  | .getb => true
  | .setr _ => false
  | .setg _ => false
  | .setb _ => false
  | .pack _ _ _ => false
  | .unpk => true
  | .iinit _ _ => false
  | .inext => false
  | .irem => true
  | .iskip _ => false
  | .stat => true

/-- The state with the pixel unit's registers replaced. -/
def State.withPixelUnit (s : State) (p : Half) (pv : Bool) : State := { s with p := p, pv := pv }

/-- The state with the iterator unit's registers replaced. -/
def State.withIterUnit (s : State) (w h x y : Half) (iv : Bool) : State :=
  { s with w := w, h := h, x := x, y := y, iv := iv }

/-- Commands performed one after another, each response taken over by the next one's; the last response stays presented. -/
def execAll : List Instr → State → Host.Outcome State Fault Refusal
  | [], s => .next s
  | i :: rest, s =>
    match exec i s with
    | .next t => execAll rest t
    | .fault r => .fault r
    | .refused r => .refused r

/-- A sequence of accepted command words, each response delivered: the responses in order and the end state
(70_reset_and_hazards.md R240); none if a command stopped or left no response. -/
def runWords : List CmdWord → State → Option (List Response × State)
  | [], s => some ([], s)
  | cw :: rest, s =>
    match perform (cmdOp cw) (cmdD cw) s with
    | .next t => t.rsp.bind fun r => (runWords rest t.deliver).map fun q => (r :: q.1, q.2)
    | .fault _ => none
    | .refused _ => none

/-- Two states the host cannot tell apart by any command: they differ at most in P while PV = 0, and in W, H, X and Y while
IV = 0 (10_state.md R37). -/
structure SameToHost (s t : State) : Prop where
  pv : s.pv = t.pv
  pixel : s.pv = true → s.p = t.p
  iv : s.iv = t.iv
  raster : s.iv = true → s.w = t.w ∧ s.h = t.h ∧ s.x = t.x ∧ s.y = t.y
  flt : s.flt = t.flt
  fcode : s.fcode = t.fcode
  fop : s.fop = t.fop
  rsp : s.rsp = t.rsp
  host : s.host = t.host

end Sys2Proof.Machine
end

