-- ==== Sys2Proof/Certificates/Slice0/Obligations.lean ====
section
/-! DEFINITION. The statements for the provers. Expected results are written out from the rules of spec/, bit by bit or in exact
naturals, not through the helper the meaning uses. `s.answering d f` is s with a normal response, `s.faulted c op` is s with the
fault c recorded and the error response, and nothing else changed: an equation with one of them is also the frame. -/

open Sys2Proof Sys2Proof.Machine

/-! ## The pixel unit: 40_pixel_channels.md -/

/-- R100: the fields and the splices, in exact naturals. -/
def Obligations.FieldsAndSplicesPartitionThePixel : Prop :=
  ∀ (p : Half) (f5 : BitVec 5) (f6 : BitVec 6),
    (fR p).toNat = p.toNat / 2048 ∧ (fG p).toNat = p.toNat / 32 % 64 ∧ (fB p).toNat = p.toNat % 32 ∧
    (withR p f5).toNat = f5.toNat * 2048 + p.toNat % 2048 ∧
    (withG p f6).toNat = p.toNat / 2048 * 2048 + f6.toNat * 32 + p.toNat % 32 ∧
    (withB p f5).toNat = p.toNat / 32 * 32 + f5.toNat

/-- R101, R102 and R103: expansion, truncation and their laws. -/
def Obligations.ExpansionAndTruncationLaws : Prop :=
  (∀ v : BitVec 5, exp5 v = (v.setWidth 8 <<< 3) ||| (v.setWidth 8 >>> 2) ∧ exp5 v = v ++ v.extractLsb' 2 3) ∧
  (∀ v : BitVec 6, exp6 v = (v.setWidth 8 <<< 2) ||| (v.setWidth 8 >>> 4) ∧ exp6 v = v ++ v.extractLsb' 4 2) ∧
  (∀ u : Byte, (trunc5 u).toNat = u.toNat / 8 ∧ (trunc6 u).toNat = u.toNat / 4) ∧
  (exp5 0#5 = 0x00#8 ∧ exp5 0x1F#5 = 0xFF#8 ∧ exp6 0#6 = 0x00#8 ∧ exp6 0x3F#6 = 0xFF#8) ∧
  (∀ v : BitVec 5, trunc5 (exp5 v) = v) ∧ (∀ v : BitVec 6, trunc6 (exp6 v) = v) ∧
  (∀ v v' : BitVec 5, v < v' → exp5 v < exp5 v') ∧ (∀ v v' : BitVec 6, v < v' → exp6 v < exp6 v') ∧
  (∀ u : Byte, exp5 (trunc5 u) = u.extractLsb' 3 5 ++ u.extractLsb' 5 3 ∧
    exp6 (trunc6 u) = u.extractLsb' 2 6 ++ u.extractLsb' 6 2 ∧
    (exp5 (trunc5 u) = u ↔ u.extractLsb' 0 3 = u.extractLsb' 5 3) ∧
    (exp6 (trunc6 u) = u ↔ u.extractLsb' 0 2 = u.extractLsb' 6 2))

/-- R110. -/
def Obligations.PldLoadsTheRawPixel : Prop :=
  (∀ (s : State) (v : Half), s.flt = false →
    exec (.pld v) s = .next ({ s with p := v, pv := true }.answering 0#32 false)) ∧
  (∀ d : Word, d.extractLsb' 16 16 = 0#16 → decode 0x01#8 d = .cmd (.pld (d.extractLsb' 0 16))) ∧
  (∀ (s : State) (d : Word), s.flt = false → d.extractLsb' 16 16 ≠ 0#16 →
    perform 0x01#8 d s = .next (s.faulted 2#4 0x01#8))

/-- R111. -/
def Obligations.PrdReadsTheRawPixel : Prop :=
  (∀ s : State, s.flt = false → s.pv = true → exec .prd s = .next (s.answering (0#16 ++ s.p) false)) ∧
  (∀ s : State, s.flt = false → s.pv = false → exec .prd s = .next (s.faulted 4#4 0x02#8)) ∧
  decode 0x02#8 0#32 = .cmd .prd ∧
  (∀ (s : State) (d : Word), s.flt = false → d ≠ 0#32 → perform 0x02#8 d s = .next (s.faulted 2#4 0x02#8))

/-- R112 with the table of R104, for every constant-colour table, and for the one `exec` runs with. The values of CONST[0],
CONST[4], CONST[5], CONST[6] and CONST[7] are the table's, whatever they are: the defaults of the first four (log entry 3) and
any value of GRAY_VALUE (log entry 4) are not claimed. -/
def Obligations.PldcLoadsTheConstantOrFaults : Prop :=
  (∀ (s : State) (k : BitVec 4) (v : Half), s.flt = false → constColour Config.colours k = some v →
    exec (.pldc k) s = .next ({ s with p := v, pv := true }.answering 0#32 false)) ∧
  (∀ (table : ColourTable) (s : State) (k : BitVec 4) (v : Half), s.flt = false → constColour table k = some v →
    execWith table (.pldc k) s = .next ({ s with p := v, pv := true }.answering 0#32 false)) ∧
  (∀ table : ColourTable,
    constColour table 0#4 = some table.black ∧ constColour table 1#4 = some 0xF800#16 ∧
    constColour table 2#4 = some 0x07E0#16 ∧ constColour table 3#4 = some 0x001F#16 ∧
    constColour table 4#4 = some table.magenta ∧ constColour table 5#4 = some table.cyan ∧
    constColour table 6#4 = some table.yellow ∧ constColour table 7#4 = some table.gray ∧
    constColour table 8#4 = some 0xFFFF#16) ∧
  (∀ (table : ColourTable) (s : State) (k : BitVec 4), s.flt = false → 8#4 < k →
    exec (.pldc k) s = .next (s.faulted 3#4 0x03#8) ∧
    execWith table (.pldc k) s = .next (s.faulted 3#4 0x03#8)) ∧
  (∀ d : Word, d.extractLsb' 4 28 = 0#28 → decode 0x03#8 d = .cmd (.pldc (d.extractLsb' 0 4))) ∧
  (∀ (s : State) (d : Word), s.flt = false → d.extractLsb' 4 28 ≠ 0#28 →
    perform 0x03#8 d s = .next (s.faulted 2#4 0x03#8))

/-- R113. -/
def Obligations.PeqComparesAllSixteenBits : Prop :=
  (∀ (s : State) (v : Half), s.flt = false → s.pv = true →
    exec (.peq v) s = .next (s.answering (if s.p = v then 1#32 else 0#32) (decide (s.p = v)))) ∧
  (∀ (s : State) (v : Half), s.flt = false → s.pv = false → exec (.peq v) s = .next (s.faulted 4#4 0x04#8)) ∧
  (∀ d : Word, d.extractLsb' 16 16 = 0#16 → decode 0x04#8 d = .cmd (.peq (d.extractLsb' 0 16))) ∧
  (∀ (s : State) (d : Word), s.flt = false → d.extractLsb' 16 16 ≠ 0#16 →
    perform 0x04#8 d s = .next (s.faulted 2#4 0x04#8))

/-- R114: v = P[15:11] ++ P[15:13]. -/
def Obligations.GetrReadsRedByReplication : Prop :=
  (∀ s : State, s.flt = false → s.pv = true →
    exec .getr s = .next (s.answering (0#24 ++ (s.p.extractLsb' 11 5 ++ s.p.extractLsb' 13 3)) false)) ∧
  (∀ s : State, s.flt = false → s.pv = false → exec .getr s = .next (s.faulted 4#4 0x08#8)) ∧
  decode 0x08#8 0#32 = .cmd .getr ∧
  (∀ (s : State) (d : Word), s.flt = false → d ≠ 0#32 → perform 0x08#8 d s = .next (s.faulted 2#4 0x08#8))

/-- R115: v = P[10:5] ++ P[10:9]. -/
def Obligations.GetgReadsGreenByReplication : Prop :=
  (∀ s : State, s.flt = false → s.pv = true →
    exec .getg s = .next (s.answering (0#24 ++ (s.p.extractLsb' 5 6 ++ s.p.extractLsb' 9 2)) false)) ∧
  (∀ s : State, s.flt = false → s.pv = false → exec .getg s = .next (s.faulted 4#4 0x09#8)) ∧
  decode 0x09#8 0#32 = .cmd .getg ∧
  (∀ (s : State) (d : Word), s.flt = false → d ≠ 0#32 → perform 0x09#8 d s = .next (s.faulted 2#4 0x09#8))

/-- R116: v = P[4:0] ++ P[4:2]. -/
def Obligations.GetbReadsBlueByReplication : Prop :=
  (∀ s : State, s.flt = false → s.pv = true →
    exec .getb s = .next (s.answering (0#24 ++ (s.p.extractLsb' 0 5 ++ s.p.extractLsb' 2 3)) false)) ∧
  (∀ s : State, s.flt = false → s.pv = false → exec .getb s = .next (s.faulted 4#4 0x0A#8)) ∧
  decode 0x0A#8 0#32 = .cmd .getb ∧
  (∀ (s : State) (d : Word), s.flt = false → d ≠ 0#32 → perform 0x0A#8 d s = .next (s.faulted 2#4 0x0A#8))

/-- R117: P becomes imm8[7:3] ++ P[10:0]. -/
def Obligations.SetrSplicesRedByTruncation : Prop :=
  (∀ (s : State) (u : Byte), s.flt = false → s.pv = true →
    exec (.setr u) s = .next ({ s with p := u.extractLsb' 3 5 ++ s.p.extractLsb' 0 11 }.answering 0#32 false)) ∧
  (∀ (s : State) (u : Byte), s.flt = false → s.pv = false → exec (.setr u) s = .next (s.faulted 4#4 0x0C#8)) ∧
  (∀ d : Word, d.extractLsb' 8 24 = 0#24 → decode 0x0C#8 d = .cmd (.setr (d.extractLsb' 0 8))) ∧
  (∀ (s : State) (d : Word), s.flt = false → d.extractLsb' 8 24 ≠ 0#24 →
    perform 0x0C#8 d s = .next (s.faulted 2#4 0x0C#8))

/-- R118: P becomes P[15:11] ++ imm8[7:2] ++ P[4:0]. -/
def Obligations.SetgSplicesGreenByTruncation : Prop :=
  (∀ (s : State) (u : Byte), s.flt = false → s.pv = true →
    exec (.setg u) s =
      .next ({ s with p := s.p.extractLsb' 11 5 ++ (u.extractLsb' 2 6 ++ s.p.extractLsb' 0 5) }.answering 0#32 false)) ∧
  (∀ (s : State) (u : Byte), s.flt = false → s.pv = false → exec (.setg u) s = .next (s.faulted 4#4 0x0D#8)) ∧
  (∀ d : Word, d.extractLsb' 8 24 = 0#24 → decode 0x0D#8 d = .cmd (.setg (d.extractLsb' 0 8))) ∧
  (∀ (s : State) (d : Word), s.flt = false → d.extractLsb' 8 24 ≠ 0#24 →
    perform 0x0D#8 d s = .next (s.faulted 2#4 0x0D#8))

/-- R119: P becomes P[15:5] ++ imm8[7:3]. -/
def Obligations.SetbSplicesBlueByTruncation : Prop :=
  (∀ (s : State) (u : Byte), s.flt = false → s.pv = true →
    exec (.setb u) s = .next ({ s with p := s.p.extractLsb' 5 11 ++ u.extractLsb' 3 5 }.answering 0#32 false)) ∧
  (∀ (s : State) (u : Byte), s.flt = false → s.pv = false → exec (.setb u) s = .next (s.faulted 4#4 0x0E#8)) ∧
  (∀ d : Word, d.extractLsb' 8 24 = 0#24 → decode 0x0E#8 d = .cmd (.setb (d.extractLsb' 0 8))) ∧
  (∀ (s : State) (d : Word), s.flt = false → d.extractLsb' 8 24 ≠ 0#24 →
    perform 0x0E#8 d s = .next (s.faulted 2#4 0x0E#8))

/-- R120: P becomes r[7:3] ++ g[7:2] ++ b[7:3], whatever PV is. -/
def Obligations.PackPacksThreeTruncatedChannels : Prop :=
  (∀ (s : State) (r g b : Byte), s.flt = false →
    exec (.pack r g b) s =
      .next ({ s with p := r.extractLsb' 3 5 ++ (g.extractLsb' 2 6 ++ b.extractLsb' 3 5), pv := true }.answering 0#32 false)) ∧
  (∀ d : Word, d.extractLsb' 24 8 = 0#8 →
    decode 0x10#8 d = .cmd (.pack (d.extractLsb' 16 8) (d.extractLsb' 8 8) (d.extractLsb' 0 8))) ∧
  (∀ (s : State) (d : Word), s.flt = false → d.extractLsb' 24 8 ≠ 0#8 →
    perform 0x10#8 d s = .next (s.faulted 2#4 0x10#8))

/-- R121: the three expanded channels in one word, red highest. -/
def Obligations.UnpkUnpacksThreeChannels : Prop :=
  (∀ s : State, s.flt = false → s.pv = true →
    exec .unpk s = .next (s.answering
      (0#8 ++ ((s.p.extractLsb' 11 5 ++ s.p.extractLsb' 13 3) ++ ((s.p.extractLsb' 5 6 ++ s.p.extractLsb' 9 2) ++
        (s.p.extractLsb' 0 5 ++ s.p.extractLsb' 2 3)))) false)) ∧
  (∀ s : State, s.flt = false → s.pv = false → exec .unpk s = .next (s.faulted 4#4 0x11#8)) ∧
  decode 0x11#8 0#32 = .cmd .unpk ∧
  (∀ (s : State) (d : Word), s.flt = false → d ≠ 0#32 → perform 0x11#8 d s = .next (s.faulted 2#4 0x11#8))

/-- R122: from PV = 1 the three sets leave what PACK leaves, for every r, g, b and every prior P; from PV = 0 the first set
faults and PACK does not. -/
def Obligations.PackEqualsThreeSets : Prop :=
  ∀ (s : State) (r g b : Byte), s.flt = false →
    (s.pv = true → execAll [.setr r, .setg g, .setb b] s = exec (.pack r g b) s) ∧
    (s.pv = false → exec (.setr r) s = .next (s.faulted 4#4 0x0C#8) ∧
      ∃ t, exec (.pack r g b) s = .next t ∧ t.flt = false)

/-- R123: UNPK's three channels are what GETR, GETG and GETB return in the same state. -/
def Obligations.UnpkEqualsThreeGets : Prop :=
  ∀ s : State, s.flt = false → s.pv = true →
    ∃ r g b : Byte,
      exec .getr s = .next (s.answering (0#24 ++ r) false) ∧ exec .getg s = .next (s.answering (0#24 ++ g) false) ∧
      exec .getb s = .next (s.answering (0#24 ++ b) false) ∧
      exec .unpk s = .next (s.answering (0#8 ++ (r ++ (g ++ b))) false)

/-- R124: PACK of what UNPK returns gives P back; UNPK after PACK returns the truncated and expanded channels. -/
def Obligations.PackAndUnpackRoundTrip : Prop :=
  (∀ s : State, s.flt = false → s.pv = true →
    ∃ (t : State) (d : Word), exec .unpk s = .next (s.answering d false) ∧
      exec (.pack (d.extractLsb' 16 8) (d.extractLsb' 8 8) (d.extractLsb' 0 8)) (s.answering d false) = .next t ∧ t.p = s.p) ∧
  (∀ (s : State) (r g b : Byte), s.flt = false →
    ∃ t, execAll [.pack r g b, .unpk] s = .next t ∧
      t.rsp = some ⟨false, false, 0#8 ++ (exp5 (trunc5 r) ++ (exp6 (trunc6 g) ++ exp5 (trunc5 b)))⟩) ∧
  (exp5 (trunc5 0xFF#8) = 0xFF#8 ∧ exp6 (trunc6 0xFF#8) = 0xFF#8 ∧ exp5 (trunc5 0x00#8) = 0x00#8 ∧
    exp6 (trunc6 0x00#8) = 0x00#8)

/-! ## The raster iterator unit: 41_raster_iterator.md -/

/-- R155: no fault whatever D and the state's earlier contents; width 0 starts in the terminal row (90_conflicts.md C3). -/
def Obligations.IinitStartsAFreshSequence : Prop :=
  (∀ (s : State) (w h : Half), s.flt = false →
    exec (.iinit w h) s =
      .next ({ s with w := w, h := h, x := 0#16, y := if w = 0#16 then h else 0#16, iv := true }.answering 0#32 false)) ∧
  (∀ w h : Half, rasterInv w h 0#16 (if w = 0#16 then h else 0#16)) ∧
  (∀ d : Word, decode 0x20#8 d = .cmd (.iinit (d.extractLsb' 0 16) (d.extractLsb' 16 16)))

/-- R156, in exact naturals. -/
def Obligations.InextYieldsAndAdvances : Prop :=
  (∀ s : State, s.flt = false → s.iv = true →
    exec .inext s = .next
      (if s.y.toNat < s.h.toNat then
        (if s.x.toNat + 1 = s.w.toNat then { s with x := 0#16, y := s.y + 1#16 } else { s with x := s.x + 1#16 }).answering
          (s.y ++ s.x) true
      else s.answering 0#32 false)) ∧
  (∀ s : State, s.flt = false → s.iv = false → exec .inext s = .next (s.faulted 5#4 0x21#8)) ∧
  decode 0x21#8 0#32 = .cmd .inext ∧
  (∀ (s : State) (d : Word), s.flt = false → d ≠ 0#32 → perform 0x21#8 d s = .next (s.faulted 2#4 0x21#8))

/-- R157 with R151: W * H - (Y * W + X) in exact naturals. -/
def Obligations.IremReportsTheExactRemainingCount : Prop :=
  (∀ s : State, s.flt = false → s.iv = true →
    exec .irem s = .next (s.answering
      (BitVec.ofNat 32 (s.w.toNat * s.h.toNat - (s.y.toNat * s.w.toNat + s.x.toNat))) false)) ∧
  (∀ s : State, s.flt = false → s.iv = false → exec .irem s = .next (s.faulted 5#4 0x22#8)) ∧
  decode 0x22#8 0#32 = .cmd .irem ∧
  (∀ (s : State) (d : Word), s.flt = false → d ≠ 0#32 → perform 0x22#8 d s = .next (s.faulted 2#4 0x22#8))

/-- R158: None and terminal when remaining <= n (90_conflicts.md C1), else the coordinate at done + n, one past it after. -/
def Obligations.IskipSkipsAndYields : Prop :=
  (∀ (s : State) (n : Word) (done : Nat), s.flt = false → s.iv = true →
    done = s.y.toNat * s.w.toNat + s.x.toNat →
    (s.w.toNat * s.h.toNat - done ≤ n.toNat →
      exec (.iskip n) s = .next ({ s with x := 0#16, y := s.h }.answering 0#32 false)) ∧
    (∀ x y : Nat, n.toNat < s.w.toNat * s.h.toNat - done → x = (done + n.toNat) % s.w.toNat →
      y = (done + n.toNat) / s.w.toNat →
      exec (.iskip n) s = .next
        ((if x + 1 = s.w.toNat then { s with x := 0#16, y := BitVec.ofNat 16 (y + 1) }
          else { s with x := BitVec.ofNat 16 (x + 1), y := BitVec.ofNat 16 y }).answering
          (BitVec.ofNat 16 y ++ BitVec.ofNat 16 x) true))) ∧
  (∀ (s : State) (n : Word), s.flt = false → s.iv = false → exec (.iskip n) s = .next (s.faulted 5#4 0x23#8)) ∧
  (∀ d : Word, decode 0x23#8 d = .cmd (.iskip d))

/-- R160: after IINIT w, h the k-th INEXT yields (k mod w, k div w) while k < w * h and None from then on; so every coordinate
of the raster is yielded by exactly one k. -/
def Obligations.SequenceVisitsEveryCoordinateOnceInOrder : Prop :=
  (∀ (s : State) (w h : Half) (k : Nat), s.flt = false →
    ∃ t, execAll (.iinit w h :: List.replicate (k + 1) .inext) s = .next t ∧
      t.rsp = if k < w.toNat * h.toNat then
          some ⟨false, true, BitVec.ofNat 16 (k / w.toNat) ++ BitVec.ofNat 16 (k % w.toNat)⟩
        else some ⟨false, false, 0#32⟩) ∧
  (∀ (w h : Half) (x y : Nat), x < w.toNat → y < h.toNat →
    ∃! k, k < w.toNat * h.toNat ∧ k % w.toNat = x ∧ k / w.toNat = y)

/-- R161: ISKIP n leaves the state, response included, that n + 1 INEXT commands leave, from every state with IV = 1 that
satisfies INV (10_state.md R28), and for every n. -/
def Obligations.SkipEqualsRepeatedNext : Prop :=
  ∀ (s : State) (n : Word), s.iv = true → rasterInv s.w s.h s.x s.y →
    execAll (List.replicate (n.toNat + 1) .inext) s = exec (.iskip n) s

/-- R162: Some lowers remaining by n + 1, None leaves 0, and remaining counts the further Some responses of INEXT. -/
def Obligations.RemainingCountsTheFurtherYields : Prop :=
  ∀ s : State, s.flt = false → s.iv = true → rasterInv s.w s.h s.x s.y →
    (∀ n : Word, ∃ (t : State) (r : Response), exec (.iskip n) s = .next t ∧ t.rsp = some r ∧
      (r.f = true → t.remaining + (n.toNat + 1) = s.remaining) ∧ (r.f = false → t.remaining = 0)) ∧
    (∃ (t : State) (r : Response), exec .inext s = .next t ∧ t.rsp = some r ∧
      (r.f = true → t.remaining + 1 = s.remaining) ∧ (r.f = false → t.remaining = 0)) ∧
    (∀ k : Nat, ∃ (t : State) (r : Response), execAll (List.replicate (k + 1) .inext) s = .next t ∧ t.rsp = some r ∧
      (r.f = true ↔ k < s.remaining))

/-- R163 in the states with IV = 1 that satisfy INV; with IV = 0 both fault ITER_UNSET and only FOP tells them apart
(log entry 15). -/
def Obligations.SkipZeroIsNext : Prop :=
  ∀ s : State,
    (s.iv = true → rasterInv s.w s.h s.x s.y → exec (.iskip 0#32) s = exec .inext s) ∧
    (s.flt = false → s.iv = false → exec (.iskip 0#32) s = .next (s.faulted 5#4 0x23#8) ∧
      exec .inext s = .next (s.faulted 5#4 0x21#8))

/-- R164 with R150 to R153: under INV no product, sum or coordinate leaves its width, and 32-bit arithmetic gives the same
remaining count and coordinate as exact naturals. -/
def Obligations.RasterArithmeticNeverWraps : Prop :=
  ∀ w h x y : Half, rasterInv w h x y →
    w.toNat * h.toNat ≤ 0xFFFE0001 ∧ y.toNat * w.toNat + x.toNat ≤ w.toNat * h.toNat ∧
    (w.setWidth 32 * h.setWidth 32 - (y.setWidth 32 * w.setWidth 32 + x.setWidth 32) : Word).toNat
      = rasterRemaining w.toNat h.toNat x.toNat y.toNat ∧
    (rasterRemaining w.toNat h.toNat x.toNat y.toNat = 0 ↔ y = h) ∧
    (∀ (n : Word) (off cx cy : Nat), n.toNat < rasterRemaining w.toNat h.toNat x.toNat y.toNat →
      off = rasterDone w.toNat x.toNat y.toNat + n.toNat → cx = (rasterCoord w.toNat off).1 →
      cy = (rasterCoord w.toNat off).2 →
      0 < w.toNat ∧ off < w.toNat * h.toNat ∧ cx < w.toNat ∧ cy < h.toNat ∧ rasterDone w.toNat cx cy = off ∧
      (rasterAdvance w.toNat cx cy).1 ≤ 65535 ∧ (rasterAdvance w.toNat cx cy).2 ≤ 65535 ∧
      rasterDone w.toNat (rasterAdvance w.toNat cx cy).1 (rasterAdvance w.toNat cx cy).2 = off + 1)

/-! ## Control: 42_control.md and 10_state.md -/

/-- R180 and the STAT part of 60_exceptions.md R205. -/
def Obligations.StatReadsStatusEvenWhenHalted : Prop :=
  (∀ s : State, exec .stat s = .next (s.answering s.status false)) ∧
  decode 0x30#8 0#32 = .cmd .stat ∧
  (∀ (s : State) (d : Word), s.flt = false → d ≠ 0#32 → perform 0x30#8 d s = .next (s.faulted 2#4 0x30#8)) ∧
  (∀ (s : State) (d : Word), s.flt = true → perform 0x30#8 d s = .next (s.answering s.status false))

/-- R30: the fields of STATUS. -/
def Obligations.StatusHasItsFields : Prop :=
  ∀ s : State,
    s.status.extractLsb' 0 1 = BitVec.ofBool s.pv ∧ s.status.extractLsb' 1 1 = BitVec.ofBool s.iv ∧
    s.status.extractLsb' 2 1 = (if s.iv = true ∧ s.y = s.h then 1#1 else 0#1) ∧
    s.status.extractLsb' 3 1 = BitVec.ofBool s.flt ∧ s.status.extractLsb' 4 4 = s.fcode ∧
    s.status.extractLsb' 8 8 = s.fop ∧ s.status.extractLsb' 16 16 = 0#16

/-- R23 to R27: which commands may change which register. -/
def Obligations.OnlyTheNamedCommandsWriteARegister : Prop :=
  ∀ (op : Byte) (d : Word) (s t : State), perform op d s = .next t →
    (t.p ≠ s.p → op ∈ [0x01#8, 0x03#8, 0x0C#8, 0x0D#8, 0x0E#8, 0x10#8]) ∧
    (t.pv ≠ s.pv → t.pv = true ∧ op ∈ [0x01#8, 0x03#8, 0x10#8]) ∧
    (t.w ≠ s.w → op = 0x20#8) ∧ (t.h ≠ s.h → op = 0x20#8) ∧
    (t.iv ≠ s.iv → t.iv = true ∧ op = 0x20#8) ∧
    (t.x ≠ s.x → op ∈ [0x20#8, 0x21#8, 0x23#8]) ∧ (t.y ≠ s.y → op ∈ [0x20#8, 0x21#8, 0x23#8])

/-- 20_memory.md R55: the commands that only return a value leave every register, and a second one gives the same response. -/
def Obligations.ReadCommandsAreIdempotent : Prop :=
  ∀ (i : Instr) (s t : State), isReadCommand i = true → exec i s = .next t →
    exec i t = .next t ∧ (t.flt = false → t = { s with rsp := t.rsp })

/-- 10_state.md R33 and R35: what a response held is read by no later command. -/
def Obligations.NoCommandReadsAnEarlierResponse : Prop :=
  ∀ (op : Byte) (d : Word) (s : State) (q : Option Response), perform op d { s with rsp := q } = perform op d s

/-- 70_reset_and_hazards.md R235 (40_pixel_channels.md R105, 41_raster_iterator.md R154): a unit's commands neither read nor
write the other unit's registers. -/
def Obligations.UnitsAreIndependent : Prop :=
  (∀ (i : Instr) (s t : State) (w h x y : Half) (iv : Bool), isPixelCommand i = true → exec i s = .next t →
    exec i (s.withIterUnit w h x y iv) = .next (t.withIterUnit w h x y iv) ∧
    t.w = s.w ∧ t.h = s.h ∧ t.x = s.x ∧ t.y = s.y ∧ t.iv = s.iv) ∧
  (∀ (i : Instr) (s t : State) (p : Half) (pv : Bool), isIterCommand i = true → exec i s = .next t →
    exec i (s.withPixelUnit p pv) = .next (t.withPixelUnit p pv) ∧ t.p = s.p ∧ t.pv = s.pv)

/-- 10_state.md R36: the constant-colour table is an argument of the step, and `step` and `exec` are the step and the commands at
`Config.colours` (log entries 3 and 4); an accepted word is performed with the table the step is given, PLDC reads only the
entry it names, no other command reads the table, and reset does the same whatever the table. -/
def Obligations.TheColourTableIsAnArgumentOfTheStep : Prop :=
  (∀ s : State, step s = stepWith Config.colours s) ∧
  (∀ (i : Instr) (s : State), exec i s = execWith Config.colours i s) ∧
  (∀ (table : ColourTable) (s : State) (m : HostDrive) (later : List HostDrive) (i : Instr), s.host = m :: later →
    m.rst = false → m.cmdValid = true → s.rsp = none → decode m.cmdOp m.cmdD = .cmd i →
    stepWith table s = execWith table i { s with host := later }) ∧
  (∀ (table other : ColourTable) (k : BitVec 4) (s : State), constColour table k = constColour other k →
    execWith table (.pldc k) s = execWith other (.pldc k) s) ∧
  (∀ (table other : ColourTable) (i : Instr) (s : State), (∀ k, i ≠ .pldc k) →
    execWith table i s = execWith other i s) ∧
  (∀ (table other : ColourTable) (s : State) (m : HostDrive) (later : List HostDrive), s.host = m :: later →
    m.rst = true → stepWith table s = stepWith other s)

/-! ## Encoding: 30_encoding.md -/

/-- R72, R75 to R82, R92: decoding the encoding of any command gives it back, every operand at every value. -/
def Obligations.DecodeOfEncodeIsTheCommand : Prop :=
  ∀ i : Instr, decodeWord (encode i) = .cmd i

/-- R86, R89: a word that decodes to a command is the encoding of that command, so no two words mean the same. -/
def Obligations.EncodeOfDecodeIsTheWord : Prop :=
  ∀ (cw : CmdWord) (i : Instr), decodeWord cw = .cmd i → encode i = cw

/-- R84, R85, R89 against the opcode table: a word decodes to a command exactly when it selects a row; a word with no defined OP
is ILLEGAL_OP, and one with a defined OP that selects no row is RESERVED_OPERAND. -/
def Obligations.DecodeAgreesWithTheOpcodeTable : Prop :=
  ∀ cw : CmdWord,
    (wordWellFormed cw = true ↔ ∃ i, decodeWord cw = .cmd i) ∧
    (opDefined cw = false → decodeWord cw = .fault .illegalOp) ∧
    (opDefined cw = true → wordWellFormed cw = false → decodeWord cw = .fault .reservedOperand) ∧
    (opDefined cw = !reservedOp (cmdOp cw))

/-- The opcode table is unambiguous: no word selects two rows. -/
def Obligations.NoWordSelectsTwoRows : Prop :=
  opcodeRows.Pairwise fun a b => ∀ cw : CmdWord, ¬ (a.selects cw = true ∧ b.selects cw = true)

/-- A few words written out from the formats of R75 to R83 decode to their commands. -/
def Obligations.SpecWordsDecode : Prop :=
  decodeWord 0x0D00000080#40 = .cmd (.setg 0x80#8) ∧ decodeWord 0x2000020003#40 = .cmd (.iinit 3#16 2#16) ∧
  decodeWord 0x1000123456#40 = .cmd (.pack 0x12#8 0x34#8 0x56#8) ∧ decodeWord 0x23FFFFFFFF#40 = .cmd (.iskip 0xFFFFFFFF#32) ∧
  decodeWord 0x0300000009#40 = .cmd (.pldc 9#4) ∧ decodeWord 0x0C00000100#40 = .fault .reservedOperand ∧
  decodeWord 0x0B00000000#40 = .fault .illegalOp

/-- R91: PCLR is PLD 0, INTH is ISKIP, and `.word` puts any OP and D together unchecked. -/
def Obligations.PseudoInstructionsExpand : Prop :=
  assemble ⟨.pclr, []⟩ = some (encode (.pld 0x0000#16)) ∧
  (∀ n : Nat, assemble ⟨.inth, [.num n]⟩ = assemble ⟨.iskip, [.num n]⟩) ∧
  (∀ (op : Byte) (d : Word), assemble ⟨.word, [.num op.toNat, .num d.toNat]⟩ = some (op ++ d))

/-- R90 and R92: operands are placed as their format says, and one that does not fit its field is rejected. -/
def Obligations.AssemblerPlacesOperandsOrRejects : Prop :=
  (∀ n : Nat, assemble ⟨.pld, [.num n]⟩ = if n ≤ 0xFFFF then some (BitVec.ofNat 40 (0x0100000000 + n)) else none) ∧
  (∀ n : Nat, assemble ⟨.peq, [.num n]⟩ = if n ≤ 0xFFFF then some (BitVec.ofNat 40 (0x0400000000 + n)) else none) ∧
  (∀ k : Nat, assemble ⟨.pldc, [.num k]⟩ = if k ≤ 15 then some (BitVec.ofNat 40 (0x0300000000 + k)) else none) ∧
  (∀ n : Nat, assemble ⟨.setg, [.num n]⟩ = if n ≤ 0xFF then some (BitVec.ofNat 40 (0x0D00000000 + n)) else none) ∧
  (∀ r g b : Nat, assemble ⟨.pack, [.num r, .num g, .num b]⟩ =
    if r ≤ 0xFF ∧ g ≤ 0xFF ∧ b ≤ 0xFF then some (BitVec.ofNat 40 (0x1000000000 + r * 65536 + g * 256 + b)) else none) ∧
  (∀ w h : Nat, assemble ⟨.iinit, [.num w, .num h]⟩ =
    if w ≤ 0xFFFF ∧ h ≤ 0xFFFF then some (BitVec.ofNat 40 (0x2000000000 + h * 65536 + w)) else none) ∧
  (∀ n : Nat, assemble ⟨.iskip, [.num n]⟩ =
    if n ≤ 0xFFFFFFFF then some (BitVec.ofNat 40 (0x2300000000 + n)) else none)

/-! ## Faults, reset and the command interface: 60_exceptions.md, 70_reset_and_hazards.md, 30_encoding.md -/

/-- R201, R202, R206: in a running block a word raises exactly the fault R202 names for it, with nothing else changed; a word
that meets none is answered without error and leaves the fault state alone. -/
def Obligations.FaultsAreExactlyTheNamedOnes : Prop :=
  ∀ (op : Byte) (d : Word) (s : State), s.flt = false →
    (expectedFault op d s.pv s.iv ≠ 0#4 →
      perform op d s = .next (s.faulted (expectedFault op d s.pv s.iv) op)) ∧
    (expectedFault op d s.pv s.iv = 0#4 →
      ∃ (t : State) (r : Response), perform op d s = .next t ∧ t.flt = false ∧ t.fcode = s.fcode ∧ t.fop = s.fop ∧
        t.rsp = some r ∧ r.err = false)

/-- R203, R205, R208: a halted block answers every word, whatever it is, with the error response and STAT with STATUS, and
changes nothing; so does `exec` for every command; and a step that leaves the halted state is a reset. -/
def Obligations.HaltedBlockAnswersOnlyStat : Prop :=
  (∀ (op : Byte) (d : Word) (s : State), s.flt = true →
    perform op d s = .next (if op = 0x30#8 then s.answering s.status false else s.erroring)) ∧
  (∀ (i : Instr) (s : State), s.flt = true →
    exec i s = .next (if i = .stat then s.answering s.status false else s.erroring)) ∧
  (∀ s t : State, s.flt = true → step s = .next t → t.flt = false →
    ∃ m later, s.host = m :: later ∧ m.rst = true)

/-- R207 with R24, R27, R29: but for a reset, no step clears PV, IV or FLT, or changes FCODE or FOP once FLT = 1. -/
def Obligations.OnlyResetClearsTheStickyState : Prop :=
  ∀ s t : State, step s = .next t → (∀ m later, s.host = m :: later → m.rst = false) →
    (s.pv = true → t.pv = true) ∧ (s.iv = true → t.iv = true) ∧
    (s.flt = true → t.flt = true ∧ t.fcode = s.fcode ∧ t.fop = s.fop)

/-- R230 and R231, with 10_state.md R37's exact rows: reset at any moment, whatever else the host drives, clears PV, IV and the
fault state and discards an undelivered response. -/
def Obligations.ResetClearsAtAnyMoment : Prop :=
  ∀ (s : State) (m : HostDrive) (later : List HostDrive), s.host = m :: later → m.rst = true →
    ∃ t, step s = .next t ∧ t.pv = false ∧ t.iv = false ∧ t.flt = false ∧ t.fcode = 0#4 ∧ t.fop = 0#8 ∧
      t.cmdReady = true ∧ t.rspValid = false ∧ t.status = 0x00000000#32 ∧ t.host = later

/-- The state after reset: 10_state.md R37's exact rows and the port of R230; the values of P, W, H, X and Y are the model's
choice (log entries 1 and 2) and not claimed. -/
def Obligations.StateAfterReset : Prop :=
  State.reset.pv = false ∧ State.reset.iv = false ∧ State.reset.flt = false ∧ State.reset.fcode = 0#4 ∧
  State.reset.fop = 0#8 ∧ State.reset.status = 0x00000000#32 ∧ State.reset.cmdReady = true ∧
  State.reset.rspValid = false

/-- The invariant holds at reset. -/
def Obligations.ResetSatisfiesTheMachineInvariant : Prop := State.reset.Inv

/-- 10_state.md R28 and R29: every step keeps INV while IV = 1, FCODE and FOP 0 while FLT = 0, FCODE one of 1 to 5 while FLT = 1,
and no error response from a running block. -/
def Obligations.EveryStepKeepsTheMachineInvariant : Prop :=
  ∀ s t : State, s.Inv → step s = .next t → t.Inv

/-- A step that accepts a word which decodes to a command is `exec` of that command, on the state with the host's moment
consumed. -/
def Obligations.StepRunsTheDecodedCommand : Prop :=
  ∀ (s : State) (m : HostDrive) (later : List HostDrive) (i : Instr), s.host = m :: later → m.rst = false →
    m.cmdValid = true → s.rsp = none → decode m.cmdOp m.cmdD = .cmd i →
    step s = exec i { s with host := later }

/-- 30_encoding.md R71 and R237: acceptance only while ready, no effect of a word while not ready, delivery, waiting, and exactly
one response per accepted word. -/
def Obligations.HandshakeMovesOneCommandAtATime : Prop :=
  (∀ (s : State) (m : HostDrive) (later : List HostDrive), s.host = m :: later → m.rst = false →
    (s.cmdReady = true → m.cmdValid = true → step s = perform m.cmdOp m.cmdD { s with host := later }) ∧
    (s.cmdReady = true → m.cmdValid = false → step s = .next { s with host := later }) ∧
    (s.cmdReady = false → m.rspReady = true → step s = .next { s with host := later, rsp := none }) ∧
    (s.cmdReady = false → m.rspReady = false → step s = .next { s with host := later })) ∧
  (∀ s : State, s.host = [] → step s = .next s) ∧
  (∀ s : State, s.cmdReady = !s.rspValid) ∧
  (∀ (op : Byte) (d : Word) (s : State), ∃ t, perform op d s = .next t ∧ t.rspValid = true ∧ t.host = s.host)

/-- R238: no state stops the machine. -/
def Obligations.EveryStepAnswersANextState : Prop :=
  ∀ s : State, ∃ t, step s = .next t

/-- R240 with R71: a run of accepted words, from reset or from any state with FLT = 0 and no response outstanding, gets one
response each and ends with nothing pending, and it has faulted, some response with `rsp_err` = 1, exactly when FLT = 1 in its end
state. -/
def Obligations.RunHasFaultedExactlyWhenFltIsSet : Prop :=
  ∀ (cws : List CmdWord) (s : State), s.flt = false → s.rsp = none →
    ∃ (rs : List Response) (t : State), runWords cws s = some (rs, t) ∧ rs.length = cws.length ∧ t.rsp = none ∧
      ((∃ r ∈ rs, r.err = true) ↔ t.flt = true)

/-- 10_state.md R37: P while PV = 0, and W, H, X, Y while IV = 0, are never observable: states that differ only there give the
same responses at every step and go on differing only there. -/
def Obligations.UnwrittenRegistersAreNeverObservable : Prop :=
  ∀ s s' t : State, SameToHost s s' → step s = .next t → ∃ t', step s' = .next t' ∧ SameToHost t t'
end

