-- ==== Sys2Proof/Laws/Bits.lean ====
section
/-! SUPPORT. Bit-field lemmas: concatenation as arithmetic, the must-be-zero masks as fields of D, and the two halves of a command
word. -/

namespace Sys2Proof

/-- Concatenation places the left value above the right one (00_scope.md R9). -/
theorem toNat_append_add {m n : Nat} (a : BitVec m) (b : BitVec n) :
    (a ++ b).toNat = a.toNat * 2 ^ n + b.toNat := by
  rw [BitVec.toNat_append, ← Nat.shiftLeft_add_eq_or_of_lt b.isLt, Nat.shiftLeft_eq]

/-- A field of a field is a field of the whole. -/
theorem extractLsb'_of_extractLsb' {w a b m n : Nat} (v : BitVec w) (h : b + n ≤ m) :
    (v.extractLsb' a m).extractLsb' b n = v.extractLsb' (a + b) n := by
  ext i hi
  have h1 : b + i < m := by omega
  simp [h1, Nat.add_assoc]

/-- Format H (R76): the mask is D[31:16]. -/
theorem mustBeZero_h_iff (d : Word) : d &&& mustBeZero .h = 0#32 ↔ d.extractLsb' 16 16 = 0#16 := by
  constructor
  · intro h
    ext i hi
    have := congrArg (fun v => v.getLsbD (16 + i)) h
    interval_cases i <;> simp [mustBeZero] at this ⊢ <;> exact this
  · intro h
    ext i hi
    have := congrArg (fun v => v.getLsbD (i - 16)) h
    interval_cases i <;> simp [mustBeZero] at this ⊢ <;> exact this

/-- Format B (R77): the mask is D[31:8]. -/
theorem mustBeZero_b_iff (d : Word) : d &&& mustBeZero .b = 0#32 ↔ d.extractLsb' 8 24 = 0#24 := by
  constructor
  · intro h
    ext i hi
    have := congrArg (fun v => v.getLsbD (8 + i)) h
    interval_cases i <;> simp [mustBeZero] at this ⊢ <;> exact this
  · intro h
    ext i hi
    have := congrArg (fun v => v.getLsbD (i - 8)) h
    interval_cases i <;> simp [mustBeZero] at this ⊢ <;> exact this

/-- Format K (R78): the mask is D[31:4]. -/
theorem mustBeZero_k_iff (d : Word) : d &&& mustBeZero .k = 0#32 ↔ d.extractLsb' 4 28 = 0#28 := by
  constructor
  · intro h
    ext i hi
    have := congrArg (fun v => v.getLsbD (4 + i)) h
    interval_cases i <;> simp [mustBeZero] at this ⊢ <;> exact this
  · intro h
    ext i hi
    have := congrArg (fun v => v.getLsbD (i - 4)) h
    interval_cases i <;> simp [mustBeZero] at this ⊢ <;> exact this

/-- Format T (R79): the mask is D[31:24]. -/
theorem mustBeZero_t_iff (d : Word) : d &&& mustBeZero .t = 0#32 ↔ d.extractLsb' 24 8 = 0#8 := by
  constructor
  · intro h
    ext i hi
    have := congrArg (fun v => v.getLsbD (24 + i)) h
    interval_cases i <;> simp [mustBeZero] at this ⊢ <;> exact this
  · intro h
    ext i hi
    have := congrArg (fun v => v.getLsbD (i - 24)) h
    interval_cases i <;> simp [mustBeZero] at this ⊢ <;> exact this

/-- Format N (R75): the mask is all of D. -/
theorem mustBeZero_n_iff (d : Word) : d &&& mustBeZero .n = 0#32 ↔ d = 0#32 := by
  have : mustBeZero .n = BitVec.allOnes 32 := by decide
  rw [this, BitVec.and_allOnes]

/-- Formats WH and W32 have no must-be-zero bits (R80, R81). -/
theorem mustBeZero_wide (d : Word) : d &&& mustBeZero .wh = 0#32 ∧ d &&& mustBeZero .w32 = 0#32 := by
  simp [mustBeZero]

/-- OP of OP ++ D (R72). -/
@[simp] theorem cmdOp_append (op : Byte) (d : Word) : cmdOp (op ++ d) = op := BitVec.extractLsb'_append_eq_left

/-- D of OP ++ D (R72). -/
@[simp] theorem cmdD_append (op : Byte) (d : Word) : cmdD (op ++ d) = d := BitVec.extractLsb'_append_eq_right

/-- A command word is its OP and its D (R72). -/
theorem cmdOp_append_cmdD (cw : CmdWord) : cmdOp cw ++ cmdD cw = cw := by
  apply BitVec.eq_of_getLsbD_eq
  intro i hi
  simp only [cmdOp, cmdD, BitVec.getLsbD_append, BitVec.getLsbD_extractLsb']
  split
  · simp_all
  · rename_i h
    have h1 : i - 32 < 8 := by omega
    have h2 : 32 + (i - 32) = i := by omega
    simp [h1, h2]

end Sys2Proof
end

