-- ==== Sys2Proof/Laws/State.lean ====
section
/-! SUPPORT. What each named update of the state does to each field: one lemma per field per update, true by rfl. -/

namespace Sys2Proof.Machine

/-! `State.respond` -/

@[simp] theorem State.respond_p (s : State) (d : Word) (f : Bool) : (s.respond d f).p = s.p := rfl
@[simp] theorem State.respond_pv (s : State) (d : Word) (f : Bool) : (s.respond d f).pv = s.pv := rfl
@[simp] theorem State.respond_w (s : State) (d : Word) (f : Bool) : (s.respond d f).w = s.w := rfl
@[simp] theorem State.respond_h (s : State) (d : Word) (f : Bool) : (s.respond d f).h = s.h := rfl
@[simp] theorem State.respond_x (s : State) (d : Word) (f : Bool) : (s.respond d f).x = s.x := rfl
@[simp] theorem State.respond_y (s : State) (d : Word) (f : Bool) : (s.respond d f).y = s.y := rfl
@[simp] theorem State.respond_iv (s : State) (d : Word) (f : Bool) : (s.respond d f).iv = s.iv := rfl
@[simp] theorem State.respond_flt (s : State) (d : Word) (f : Bool) : (s.respond d f).flt = s.flt := rfl
@[simp] theorem State.respond_fcode (s : State) (d : Word) (f : Bool) : (s.respond d f).fcode = s.fcode := rfl
@[simp] theorem State.respond_fop (s : State) (d : Word) (f : Bool) : (s.respond d f).fop = s.fop := rfl
@[simp] theorem State.respond_rsp (s : State) (d : Word) (f : Bool) : (s.respond d f).rsp = some ⟨false, f, d⟩ := rfl
@[simp] theorem State.respond_host (s : State) (d : Word) (f : Bool) : (s.respond d f).host = s.host := rfl

/-! `State.respondError` -/

@[simp] theorem State.respondError_p (s : State) : (s.respondError).p = s.p := rfl
@[simp] theorem State.respondError_pv (s : State) : (s.respondError).pv = s.pv := rfl
@[simp] theorem State.respondError_w (s : State) : (s.respondError).w = s.w := rfl
@[simp] theorem State.respondError_h (s : State) : (s.respondError).h = s.h := rfl
@[simp] theorem State.respondError_x (s : State) : (s.respondError).x = s.x := rfl
@[simp] theorem State.respondError_y (s : State) : (s.respondError).y = s.y := rfl
@[simp] theorem State.respondError_iv (s : State) : (s.respondError).iv = s.iv := rfl
@[simp] theorem State.respondError_flt (s : State) : (s.respondError).flt = s.flt := rfl
@[simp] theorem State.respondError_fcode (s : State) : (s.respondError).fcode = s.fcode := rfl
@[simp] theorem State.respondError_fop (s : State) : (s.respondError).fop = s.fop := rfl
@[simp] theorem State.respondError_rsp (s : State) : (s.respondError).rsp = some ⟨true, false, 0#32⟩ := rfl
@[simp] theorem State.respondError_host (s : State) : (s.respondError).host = s.host := rfl

/-! `State.respondZero` -/

@[simp] theorem State.respondZero_p (s : State) : (s.respondZero).p = s.p := rfl
@[simp] theorem State.respondZero_pv (s : State) : (s.respondZero).pv = s.pv := rfl
@[simp] theorem State.respondZero_w (s : State) : (s.respondZero).w = s.w := rfl
@[simp] theorem State.respondZero_h (s : State) : (s.respondZero).h = s.h := rfl
@[simp] theorem State.respondZero_x (s : State) : (s.respondZero).x = s.x := rfl
@[simp] theorem State.respondZero_y (s : State) : (s.respondZero).y = s.y := rfl
@[simp] theorem State.respondZero_iv (s : State) : (s.respondZero).iv = s.iv := rfl
@[simp] theorem State.respondZero_flt (s : State) : (s.respondZero).flt = s.flt := rfl
@[simp] theorem State.respondZero_fcode (s : State) : (s.respondZero).fcode = s.fcode := rfl
@[simp] theorem State.respondZero_fop (s : State) : (s.respondZero).fop = s.fop := rfl
@[simp] theorem State.respondZero_rsp (s : State) : (s.respondZero).rsp = some ⟨false, false, 0#32⟩ := rfl
@[simp] theorem State.respondZero_host (s : State) : (s.respondZero).host = s.host := rfl

/-! `State.respondCoord` -/

@[simp] theorem State.respondCoord_p (s : State) (a b : Half) : (s.respondCoord a b).p = s.p := rfl
@[simp] theorem State.respondCoord_pv (s : State) (a b : Half) : (s.respondCoord a b).pv = s.pv := rfl
@[simp] theorem State.respondCoord_w (s : State) (a b : Half) : (s.respondCoord a b).w = s.w := rfl
@[simp] theorem State.respondCoord_h (s : State) (a b : Half) : (s.respondCoord a b).h = s.h := rfl
@[simp] theorem State.respondCoord_x (s : State) (a b : Half) : (s.respondCoord a b).x = s.x := rfl
@[simp] theorem State.respondCoord_y (s : State) (a b : Half) : (s.respondCoord a b).y = s.y := rfl
@[simp] theorem State.respondCoord_iv (s : State) (a b : Half) : (s.respondCoord a b).iv = s.iv := rfl
@[simp] theorem State.respondCoord_flt (s : State) (a b : Half) : (s.respondCoord a b).flt = s.flt := rfl
@[simp] theorem State.respondCoord_fcode (s : State) (a b : Half) : (s.respondCoord a b).fcode = s.fcode := rfl
@[simp] theorem State.respondCoord_fop (s : State) (a b : Half) : (s.respondCoord a b).fop = s.fop := rfl
@[simp] theorem State.respondCoord_rsp (s : State) (a b : Half) : (s.respondCoord a b).rsp = some ⟨false, true, coordData a b⟩ := rfl
@[simp] theorem State.respondCoord_host (s : State) (a b : Half) : (s.respondCoord a b).host = s.host := rfl

/-! `State.loadPixel` -/

@[simp] theorem State.loadPixel_p (s : State) (v : Half) : (s.loadPixel v).p = v := rfl
@[simp] theorem State.loadPixel_pv (s : State) (v : Half) : (s.loadPixel v).pv = true := rfl
@[simp] theorem State.loadPixel_w (s : State) (v : Half) : (s.loadPixel v).w = s.w := rfl
@[simp] theorem State.loadPixel_h (s : State) (v : Half) : (s.loadPixel v).h = s.h := rfl
@[simp] theorem State.loadPixel_x (s : State) (v : Half) : (s.loadPixel v).x = s.x := rfl
@[simp] theorem State.loadPixel_y (s : State) (v : Half) : (s.loadPixel v).y = s.y := rfl
@[simp] theorem State.loadPixel_iv (s : State) (v : Half) : (s.loadPixel v).iv = s.iv := rfl
@[simp] theorem State.loadPixel_flt (s : State) (v : Half) : (s.loadPixel v).flt = s.flt := rfl
@[simp] theorem State.loadPixel_fcode (s : State) (v : Half) : (s.loadPixel v).fcode = s.fcode := rfl
@[simp] theorem State.loadPixel_fop (s : State) (v : Half) : (s.loadPixel v).fop = s.fop := rfl
@[simp] theorem State.loadPixel_rsp (s : State) (v : Half) : (s.loadPixel v).rsp = s.rsp := rfl
@[simp] theorem State.loadPixel_host (s : State) (v : Half) : (s.loadPixel v).host = s.host := rfl

/-! `State.setPixel` -/

@[simp] theorem State.setPixel_p (s : State) (v : Half) : (s.setPixel v).p = v := rfl
@[simp] theorem State.setPixel_pv (s : State) (v : Half) : (s.setPixel v).pv = s.pv := rfl
@[simp] theorem State.setPixel_w (s : State) (v : Half) : (s.setPixel v).w = s.w := rfl
@[simp] theorem State.setPixel_h (s : State) (v : Half) : (s.setPixel v).h = s.h := rfl
@[simp] theorem State.setPixel_x (s : State) (v : Half) : (s.setPixel v).x = s.x := rfl
@[simp] theorem State.setPixel_y (s : State) (v : Half) : (s.setPixel v).y = s.y := rfl
@[simp] theorem State.setPixel_iv (s : State) (v : Half) : (s.setPixel v).iv = s.iv := rfl
@[simp] theorem State.setPixel_flt (s : State) (v : Half) : (s.setPixel v).flt = s.flt := rfl
@[simp] theorem State.setPixel_fcode (s : State) (v : Half) : (s.setPixel v).fcode = s.fcode := rfl
@[simp] theorem State.setPixel_fop (s : State) (v : Half) : (s.setPixel v).fop = s.fop := rfl
@[simp] theorem State.setPixel_rsp (s : State) (v : Half) : (s.setPixel v).rsp = s.rsp := rfl
@[simp] theorem State.setPixel_host (s : State) (v : Half) : (s.setPixel v).host = s.host := rfl

/-! `State.startRaster` -/

@[simp] theorem State.startRaster_p (s : State) (a b : Half) : (s.startRaster a b).p = s.p := rfl
@[simp] theorem State.startRaster_pv (s : State) (a b : Half) : (s.startRaster a b).pv = s.pv := rfl
@[simp] theorem State.startRaster_w (s : State) (a b : Half) : (s.startRaster a b).w = a := rfl
@[simp] theorem State.startRaster_h (s : State) (a b : Half) : (s.startRaster a b).h = b := rfl
@[simp] theorem State.startRaster_x (s : State) (a b : Half) : (s.startRaster a b).x = 0#16 := rfl
@[simp] theorem State.startRaster_y (s : State) (a b : Half) : (s.startRaster a b).y = startRow a b := rfl
@[simp] theorem State.startRaster_iv (s : State) (a b : Half) : (s.startRaster a b).iv = true := rfl
@[simp] theorem State.startRaster_flt (s : State) (a b : Half) : (s.startRaster a b).flt = s.flt := rfl
@[simp] theorem State.startRaster_fcode (s : State) (a b : Half) : (s.startRaster a b).fcode = s.fcode := rfl
@[simp] theorem State.startRaster_fop (s : State) (a b : Half) : (s.startRaster a b).fop = s.fop := rfl
@[simp] theorem State.startRaster_rsp (s : State) (a b : Half) : (s.startRaster a b).rsp = s.rsp := rfl
@[simp] theorem State.startRaster_host (s : State) (a b : Half) : (s.startRaster a b).host = s.host := rfl

/-! `State.moveTo` -/

@[simp] theorem State.moveTo_p (s : State) (xy : Nat × Nat) : (s.moveTo xy).p = s.p := rfl
@[simp] theorem State.moveTo_pv (s : State) (xy : Nat × Nat) : (s.moveTo xy).pv = s.pv := rfl
@[simp] theorem State.moveTo_w (s : State) (xy : Nat × Nat) : (s.moveTo xy).w = s.w := rfl
@[simp] theorem State.moveTo_h (s : State) (xy : Nat × Nat) : (s.moveTo xy).h = s.h := rfl
@[simp] theorem State.moveTo_x (s : State) (xy : Nat × Nat) : (s.moveTo xy).x = BitVec.ofNat 16 xy.1 := rfl
@[simp] theorem State.moveTo_y (s : State) (xy : Nat × Nat) : (s.moveTo xy).y = BitVec.ofNat 16 xy.2 := rfl
@[simp] theorem State.moveTo_iv (s : State) (xy : Nat × Nat) : (s.moveTo xy).iv = s.iv := rfl
@[simp] theorem State.moveTo_flt (s : State) (xy : Nat × Nat) : (s.moveTo xy).flt = s.flt := rfl
@[simp] theorem State.moveTo_fcode (s : State) (xy : Nat × Nat) : (s.moveTo xy).fcode = s.fcode := rfl
@[simp] theorem State.moveTo_fop (s : State) (xy : Nat × Nat) : (s.moveTo xy).fop = s.fop := rfl
@[simp] theorem State.moveTo_rsp (s : State) (xy : Nat × Nat) : (s.moveTo xy).rsp = s.rsp := rfl
@[simp] theorem State.moveTo_host (s : State) (xy : Nat × Nat) : (s.moveTo xy).host = s.host := rfl

/-! `State.yieldAt` -/

@[simp] theorem State.yieldAt_p (s : State) (xy : Nat × Nat) : (s.yieldAt xy).p = s.p := rfl
@[simp] theorem State.yieldAt_pv (s : State) (xy : Nat × Nat) : (s.yieldAt xy).pv = s.pv := rfl
@[simp] theorem State.yieldAt_w (s : State) (xy : Nat × Nat) : (s.yieldAt xy).w = s.w := rfl
@[simp] theorem State.yieldAt_h (s : State) (xy : Nat × Nat) : (s.yieldAt xy).h = s.h := rfl
@[simp] theorem State.yieldAt_x (s : State) (xy : Nat × Nat) : (s.yieldAt xy).x = BitVec.ofNat 16 (rasterAdvance s.w.toNat xy.1 xy.2).1 := rfl
@[simp] theorem State.yieldAt_y (s : State) (xy : Nat × Nat) : (s.yieldAt xy).y = BitVec.ofNat 16 (rasterAdvance s.w.toNat xy.1 xy.2).2 := rfl
@[simp] theorem State.yieldAt_iv (s : State) (xy : Nat × Nat) : (s.yieldAt xy).iv = s.iv := rfl
@[simp] theorem State.yieldAt_flt (s : State) (xy : Nat × Nat) : (s.yieldAt xy).flt = s.flt := rfl
@[simp] theorem State.yieldAt_fcode (s : State) (xy : Nat × Nat) : (s.yieldAt xy).fcode = s.fcode := rfl
@[simp] theorem State.yieldAt_fop (s : State) (xy : Nat × Nat) : (s.yieldAt xy).fop = s.fop := rfl
@[simp] theorem State.yieldAt_rsp (s : State) (xy : Nat × Nat) : (s.yieldAt xy).rsp = some ⟨false, true, coordData (BitVec.ofNat 16 xy.1) (BitVec.ofNat 16 xy.2)⟩ := rfl
@[simp] theorem State.yieldAt_host (s : State) (xy : Nat × Nat) : (s.yieldAt xy).host = s.host := rfl

/-! `State.raise` -/

@[simp] theorem State.raise_p (s : State) (op : Byte) (c : FaultCode) : (s.raise op c).p = s.p := rfl
@[simp] theorem State.raise_pv (s : State) (op : Byte) (c : FaultCode) : (s.raise op c).pv = s.pv := rfl
@[simp] theorem State.raise_w (s : State) (op : Byte) (c : FaultCode) : (s.raise op c).w = s.w := rfl
@[simp] theorem State.raise_h (s : State) (op : Byte) (c : FaultCode) : (s.raise op c).h = s.h := rfl
@[simp] theorem State.raise_x (s : State) (op : Byte) (c : FaultCode) : (s.raise op c).x = s.x := rfl
@[simp] theorem State.raise_y (s : State) (op : Byte) (c : FaultCode) : (s.raise op c).y = s.y := rfl
@[simp] theorem State.raise_iv (s : State) (op : Byte) (c : FaultCode) : (s.raise op c).iv = s.iv := rfl
@[simp] theorem State.raise_flt (s : State) (op : Byte) (c : FaultCode) : (s.raise op c).flt = true := rfl
@[simp] theorem State.raise_fcode (s : State) (op : Byte) (c : FaultCode) : (s.raise op c).fcode = faultNumber c := rfl
@[simp] theorem State.raise_fop (s : State) (op : Byte) (c : FaultCode) : (s.raise op c).fop = op := rfl
@[simp] theorem State.raise_rsp (s : State) (op : Byte) (c : FaultCode) : (s.raise op c).rsp = some ⟨true, false, 0#32⟩ := rfl
@[simp] theorem State.raise_host (s : State) (op : Byte) (c : FaultCode) : (s.raise op c).host = s.host := rfl

/-! `State.deliver` -/

@[simp] theorem State.deliver_p (s : State) : (s.deliver).p = s.p := rfl
@[simp] theorem State.deliver_pv (s : State) : (s.deliver).pv = s.pv := rfl
@[simp] theorem State.deliver_w (s : State) : (s.deliver).w = s.w := rfl
@[simp] theorem State.deliver_h (s : State) : (s.deliver).h = s.h := rfl
@[simp] theorem State.deliver_x (s : State) : (s.deliver).x = s.x := rfl
@[simp] theorem State.deliver_y (s : State) : (s.deliver).y = s.y := rfl
@[simp] theorem State.deliver_iv (s : State) : (s.deliver).iv = s.iv := rfl
@[simp] theorem State.deliver_flt (s : State) : (s.deliver).flt = s.flt := rfl
@[simp] theorem State.deliver_fcode (s : State) : (s.deliver).fcode = s.fcode := rfl
@[simp] theorem State.deliver_fop (s : State) : (s.deliver).fop = s.fop := rfl
@[simp] theorem State.deliver_rsp (s : State) : (s.deliver).rsp = none := rfl
@[simp] theorem State.deliver_host (s : State) : (s.deliver).host = s.host := rfl

/-! `State.resetBlock` -/

@[simp] theorem State.resetBlock_p (s : State) : (s.resetBlock).p = State.reset.p := rfl
@[simp] theorem State.resetBlock_pv (s : State) : (s.resetBlock).pv = State.reset.pv := rfl
@[simp] theorem State.resetBlock_w (s : State) : (s.resetBlock).w = State.reset.w := rfl
@[simp] theorem State.resetBlock_h (s : State) : (s.resetBlock).h = State.reset.h := rfl
@[simp] theorem State.resetBlock_x (s : State) : (s.resetBlock).x = State.reset.x := rfl
@[simp] theorem State.resetBlock_y (s : State) : (s.resetBlock).y = State.reset.y := rfl
@[simp] theorem State.resetBlock_iv (s : State) : (s.resetBlock).iv = State.reset.iv := rfl
@[simp] theorem State.resetBlock_flt (s : State) : (s.resetBlock).flt = State.reset.flt := rfl
@[simp] theorem State.resetBlock_fcode (s : State) : (s.resetBlock).fcode = State.reset.fcode := rfl
@[simp] theorem State.resetBlock_fop (s : State) : (s.resetBlock).fop = State.reset.fop := rfl
@[simp] theorem State.resetBlock_rsp (s : State) : (s.resetBlock).rsp = State.reset.rsp := rfl
@[simp] theorem State.resetBlock_host (s : State) : (s.resetBlock).host = s.host := rfl

/-! `State.withCommand` -/

@[simp] theorem State.withCommand_p (s : State) (cw : CmdWord) : (s.withCommand cw).p = s.p := rfl
@[simp] theorem State.withCommand_pv (s : State) (cw : CmdWord) : (s.withCommand cw).pv = s.pv := rfl
@[simp] theorem State.withCommand_w (s : State) (cw : CmdWord) : (s.withCommand cw).w = s.w := rfl
@[simp] theorem State.withCommand_h (s : State) (cw : CmdWord) : (s.withCommand cw).h = s.h := rfl
@[simp] theorem State.withCommand_x (s : State) (cw : CmdWord) : (s.withCommand cw).x = s.x := rfl
@[simp] theorem State.withCommand_y (s : State) (cw : CmdWord) : (s.withCommand cw).y = s.y := rfl
@[simp] theorem State.withCommand_iv (s : State) (cw : CmdWord) : (s.withCommand cw).iv = s.iv := rfl
@[simp] theorem State.withCommand_flt (s : State) (cw : CmdWord) : (s.withCommand cw).flt = s.flt := rfl
@[simp] theorem State.withCommand_fcode (s : State) (cw : CmdWord) : (s.withCommand cw).fcode = s.fcode := rfl
@[simp] theorem State.withCommand_fop (s : State) (cw : CmdWord) : (s.withCommand cw).fop = s.fop := rfl
@[simp] theorem State.withCommand_rsp (s : State) (cw : CmdWord) : (s.withCommand cw).rsp = none := rfl
@[simp] theorem State.withCommand_host (s : State) (cw : CmdWord) : (s.withCommand cw).host = presentCommand (cmdOp cw) (cmdD cw) :: s.host := rfl

/-! `State.answering` -/

@[simp] theorem State.answering_p (s : State) (d : Word) (f : Bool) : (s.answering d f).p = s.p := rfl
@[simp] theorem State.answering_pv (s : State) (d : Word) (f : Bool) : (s.answering d f).pv = s.pv := rfl
@[simp] theorem State.answering_w (s : State) (d : Word) (f : Bool) : (s.answering d f).w = s.w := rfl
@[simp] theorem State.answering_h (s : State) (d : Word) (f : Bool) : (s.answering d f).h = s.h := rfl
@[simp] theorem State.answering_x (s : State) (d : Word) (f : Bool) : (s.answering d f).x = s.x := rfl
@[simp] theorem State.answering_y (s : State) (d : Word) (f : Bool) : (s.answering d f).y = s.y := rfl
@[simp] theorem State.answering_iv (s : State) (d : Word) (f : Bool) : (s.answering d f).iv = s.iv := rfl
@[simp] theorem State.answering_flt (s : State) (d : Word) (f : Bool) : (s.answering d f).flt = s.flt := rfl
@[simp] theorem State.answering_fcode (s : State) (d : Word) (f : Bool) : (s.answering d f).fcode = s.fcode := rfl
@[simp] theorem State.answering_fop (s : State) (d : Word) (f : Bool) : (s.answering d f).fop = s.fop := rfl
@[simp] theorem State.answering_rsp (s : State) (d : Word) (f : Bool) : (s.answering d f).rsp = some ⟨false, f, d⟩ := rfl
@[simp] theorem State.answering_host (s : State) (d : Word) (f : Bool) : (s.answering d f).host = s.host := rfl

/-! `State.erroring` -/

@[simp] theorem State.erroring_p (s : State) : (s.erroring).p = s.p := rfl
@[simp] theorem State.erroring_pv (s : State) : (s.erroring).pv = s.pv := rfl
@[simp] theorem State.erroring_w (s : State) : (s.erroring).w = s.w := rfl
@[simp] theorem State.erroring_h (s : State) : (s.erroring).h = s.h := rfl
@[simp] theorem State.erroring_x (s : State) : (s.erroring).x = s.x := rfl
@[simp] theorem State.erroring_y (s : State) : (s.erroring).y = s.y := rfl
@[simp] theorem State.erroring_iv (s : State) : (s.erroring).iv = s.iv := rfl
@[simp] theorem State.erroring_flt (s : State) : (s.erroring).flt = s.flt := rfl
@[simp] theorem State.erroring_fcode (s : State) : (s.erroring).fcode = s.fcode := rfl
@[simp] theorem State.erroring_fop (s : State) : (s.erroring).fop = s.fop := rfl
@[simp] theorem State.erroring_rsp (s : State) : (s.erroring).rsp = some ⟨true, false, 0#32⟩ := rfl
@[simp] theorem State.erroring_host (s : State) : (s.erroring).host = s.host := rfl

/-! `State.faulted` -/

@[simp] theorem State.faulted_p (s : State) (c : BitVec 4) (op : Byte) : (s.faulted c op).p = s.p := rfl
@[simp] theorem State.faulted_pv (s : State) (c : BitVec 4) (op : Byte) : (s.faulted c op).pv = s.pv := rfl
@[simp] theorem State.faulted_w (s : State) (c : BitVec 4) (op : Byte) : (s.faulted c op).w = s.w := rfl
@[simp] theorem State.faulted_h (s : State) (c : BitVec 4) (op : Byte) : (s.faulted c op).h = s.h := rfl
@[simp] theorem State.faulted_x (s : State) (c : BitVec 4) (op : Byte) : (s.faulted c op).x = s.x := rfl
@[simp] theorem State.faulted_y (s : State) (c : BitVec 4) (op : Byte) : (s.faulted c op).y = s.y := rfl
@[simp] theorem State.faulted_iv (s : State) (c : BitVec 4) (op : Byte) : (s.faulted c op).iv = s.iv := rfl
@[simp] theorem State.faulted_flt (s : State) (c : BitVec 4) (op : Byte) : (s.faulted c op).flt = true := rfl
@[simp] theorem State.faulted_fcode (s : State) (c : BitVec 4) (op : Byte) : (s.faulted c op).fcode = c := rfl
@[simp] theorem State.faulted_fop (s : State) (c : BitVec 4) (op : Byte) : (s.faulted c op).fop = op := rfl
@[simp] theorem State.faulted_rsp (s : State) (c : BitVec 4) (op : Byte) : (s.faulted c op).rsp = some ⟨true, false, 0#32⟩ := rfl
@[simp] theorem State.faulted_host (s : State) (c : BitVec 4) (op : Byte) : (s.faulted c op).host = s.host := rfl

end Sys2Proof.Machine
end

