-- ==== Sys2Proof/Laws/Ops.lean ====
section
/-! SUPPORT. What each shared operation of Machine/Ops.lean can do: the checks of 60_exceptions.md R204 one by one, and the
operations in the terms of Safety.lean. -/

namespace Sys2Proof.Machine

/-! The answers in the terms of the statements. -/

theorem State.respond_eq_answering (s : State) (d : Word) (f : Bool) : s.respond d f = s.answering d f := rfl

theorem State.respondZero_eq_answering (s : State) : s.respondZero = s.answering 0#32 false := rfl

theorem State.respondCoord_eq_answering (s : State) (x y : Half) : s.respondCoord x y = s.answering (y ++ x) true := rfl

theorem State.respondError_eq_erroring (s : State) : s.respondError = s.erroring := rfl

theorem State.raise_eq_faulted (s : State) (op : Byte) (c : FaultCode) : s.raise op c = s.faulted (faultNumber c) op := rfl

theorem State.haltedAnswer_eq (s : State) (op : Byte) :
    s.haltedAnswer op = if op = 0x30#8 then s.answering s.status false else s.erroring := rfl

/-! The order of checks, case by case. -/

theorem State.whenRunning_of_halted {s : State} (op : Byte) (go : State → State) (h : s.flt = true) :
    s.whenRunning op go = s.haltedAnswer op := by simp [State.whenRunning, h]

theorem State.whenRunning_of_running {s : State} (op : Byte) (go : State → State) (h : s.flt = false) :
    s.whenRunning op go = go s := by simp [State.whenRunning, h]

theorem State.whenPixel_of_halted {s : State} (op : Byte) (go : State → State) (h : s.flt = true) :
    s.whenPixel op go = s.haltedAnswer op := State.whenRunning_of_halted op _ h

theorem State.whenPixel_of_unset {s : State} (op : Byte) (go : State → State) (h : s.flt = false) (hp : s.pv = false) :
    s.whenPixel op go = s.faulted 4#4 op := by
  rw [State.whenPixel, State.whenRunning_of_running _ _ h, hp]; rfl

theorem State.whenPixel_of_valid {s : State} (op : Byte) (go : State → State) (h : s.flt = false) (hp : s.pv = true) :
    s.whenPixel op go = go s := by
  rw [State.whenPixel, State.whenRunning_of_running _ _ h, hp]; rfl

theorem State.whenIter_of_halted {s : State} (op : Byte) (go : State → State) (h : s.flt = true) :
    s.whenIter op go = s.haltedAnswer op := State.whenRunning_of_halted op _ h

theorem State.whenIter_of_unset {s : State} (op : Byte) (go : State → State) (h : s.flt = false) (hi : s.iv = false) :
    s.whenIter op go = s.faulted 5#4 op := by
  rw [State.whenIter, State.whenRunning_of_running _ _ h, hi]; rfl

theorem State.whenIter_of_valid {s : State} (op : Byte) (go : State → State) (h : s.flt = false) (hi : s.iv = true) :
    s.whenIter op go = go s := by
  rw [State.whenIter, State.whenRunning_of_running _ _ h, hi]; rfl

theorem State.refuseWord_of_running {s : State} (op : Byte) (c : FaultCode) (h : s.flt = false) :
    s.refuseWord op c = s.faulted (faultNumber c) op := State.whenRunning_of_running op _ h

/-- Everything a checked command can do: answer as halted, or what it does in a running block. -/
theorem State.whenRunning_ind (motive : State → Prop) (s : State) (op : Byte) (go : State → State)
    (halted : s.flt = true → motive (s.haltedAnswer op)) (run : s.flt = false → motive (go s)) :
    motive (s.whenRunning op go) := by
  cases h : s.flt
  · rw [State.whenRunning_of_running op go h]; exact run h
  · rw [State.whenRunning_of_halted op go h]; exact halted h

/-- Everything a command that reads P can do. -/
theorem State.whenPixel_ind (motive : State → Prop) (s : State) (op : Byte) (go : State → State)
    (halted : s.flt = true → motive (s.haltedAnswer op))
    (unset : s.flt = false → s.pv = false → motive (s.faulted 4#4 op))
    (run : s.flt = false → s.pv = true → motive (go s)) : motive (s.whenPixel op go) := by
  refine State.whenRunning_ind motive s op _ halted fun h => ?_
  cases hp : s.pv
  · exact unset h hp
  · exact run h hp

/-- Everything a command that reads the iterator can do. -/
theorem State.whenIter_ind (motive : State → Prop) (s : State) (op : Byte) (go : State → State)
    (halted : s.flt = true → motive (s.haltedAnswer op))
    (unset : s.flt = false → s.iv = false → motive (s.faulted 5#4 op))
    (run : s.flt = false → s.iv = true → motive (go s)) : motive (s.whenIter op go) := by
  refine State.whenRunning_ind motive s op _ halted fun h => ?_
  cases hi : s.iv
  · exact unset h hi
  · exact run h hi

/-- What a halted block changes: the presented response, nothing else. -/
theorem State.haltedAnswer_frame (s : State) (op : Byte) :
    ∃ r : Response, s.haltedAnswer op = { s with rsp := some r } := by
  rw [State.haltedAnswer_eq]
  split
  · exact ⟨_, rfl⟩
  · exact ⟨_, rfl⟩

/-! The port. -/

/-- The commands other than PLDC do not read the table (10_state.md R36). -/
theorem execWith_of_ne_pldc (table : ColourTable) {i : Instr} (s : State) (h : ∀ k, i ≠ .pldc k) :
    execWith table i s = exec i s := by
  cases i with
  | pldc k => exact absurd rfl (h k)
  | _ => rfl

/-- `exec` is `execWith` at the table it runs with. -/
@[simp] theorem execWith_colours (i : Instr) (s : State) : execWith Config.colours i s = exec i s := by cases i <;> rfl

/-- Performing a word that decodes to a command is `execWith` of it. -/
theorem performWith_of_cmd (table : ColourTable) {op : Byte} {d : Word} {i : Instr} (s : State) (h : decode op d = .cmd i) :
    performWith table op d s = execWith table i s := by simp [performWith, h]

/-- Performing a word that decodes to a fault refuses it, whatever the table. -/
theorem performWith_of_fault (table : ColourTable) {op : Byte} {d : Word} {c : FaultCode} (s : State)
    (h : decode op d = .fault c) : performWith table op d s = .next (s.refuseWord op c) := by simp [performWith, h]

/-- Performing a word that decodes to a command is `exec` of it. -/
theorem perform_of_cmd {op : Byte} {d : Word} {i : Instr} (s : State) (h : decode op d = .cmd i) :
    perform op d s = exec i s := by simp [perform, performWith_of_cmd _ s h]

/-- Performing a word that decodes to a fault refuses it. -/
theorem perform_of_fault {op : Byte} {d : Word} {c : FaultCode} (s : State) (h : decode op d = .fault c) :
    perform op d s = .next (s.refuseWord op c) := performWith_of_fault _ s h

/-- A step with nothing driven. -/
theorem stepWith_of_idle (table : ColourTable) {s : State} (h : s.host = []) : stepWith table s = .next s := by
  simp [stepWith, stepPortWith, h]

/-- A step takes the host's next moment. -/
theorem stepWith_of_drive (table : ColourTable) {s : State} {m : HostDrive} {later : List HostDrive}
    (h : s.host = m :: later) : stepWith table s = onDriveWith table m { s with host := later } := by
  simp [stepWith, stepPortWith, h]

/-- A moment of reset, whatever else is driven and whatever the table. -/
theorem onDriveWith_of_reset (table : ColourTable) {m : HostDrive} (s : State) (h : m.rst = true) :
    onDriveWith table m s = .next s.resetBlock := by simp [onDriveWith, h]

/-- A moment in which a command is accepted. -/
theorem onDriveWith_of_accept (table : ColourTable) {m : HostDrive} {s : State} (hr : m.rst = false)
    (hv : m.cmdValid = true) (hc : s.rsp = none) : onDriveWith table m s = performWith table m.cmdOp m.cmdD s := by
  simp [onDriveWith, hr, hv, hc, State.cmdReady]

/-- Any other moment writes no register: it delivers the response or changes nothing. -/
theorem onDriveWith_of_no_accept (table : ColourTable) {m : HostDrive} {s : State} (hr : m.rst = false)
    (ha : s.rsp ≠ none ∨ m.cmdValid = false) :
    onDriveWith table m s = .next s ∨ onDriveWith table m s = .next s.deliver := by
  rcases hrsp : s.rsp with _ | r
  · have hv : m.cmdValid = false := by simpa [hrsp] using ha
    simp [onDriveWith, hr, hv, hrsp, State.cmdReady]
  · cases hd : m.rspReady <;> simp [onDriveWith, hr, hrsp, hd, State.cmdReady]

/-- A step at the fixed table with nothing driven. -/
theorem step_of_idle {s : State} (h : s.host = []) : step s = .next s := stepWith_of_idle _ h

/-- A step at the fixed table takes the host's next moment. -/
theorem step_of_drive {s : State} {m : HostDrive} {later : List HostDrive} (h : s.host = m :: later) :
    step s = onDriveWith Config.colours m { s with host := later } := stepWith_of_drive _ h

end Sys2Proof.Machine
end

