-- ==== Sys2Proof/Laws/Exec.lean ====
section
/-! SUPPORT. Running commands one after another, the fields of a spliced pixel, and the decode of an encoded word. -/

namespace Sys2Proof.Machine

@[simp] theorem execAll_nil (s : State) : execAll [] s = .next s := rfl

/-- The first command's next state is where the others start. -/
theorem execAll_cons_of_next {i : Instr} {s t : State} (rest : List Instr) (h : exec i s = .next t) :
    execAll (i :: rest) s = execAll rest t := by simp [execAll, h]

/-- One command is a sequence of one. -/
theorem execAll_singleton (i : Instr) (s : State) : execAll [i] s = exec i s := by
  cases h : exec i s <;> simp [execAll, h]

/-- Where a sequence ends, another goes on. -/
theorem execAll_append_of_next {first : List Instr} {s t : State} (rest : List Instr) (h : execAll first s = .next t) :
    execAll (first ++ rest) s = execAll rest t := by
  induction first generalizing s with
  | nil => simp only [execAll_nil, Host.Outcome.next.injEq] at h; simp [h]
  | cons i more ih =>
    cases hi : exec i s with
    | next u => rw [List.cons_append, execAll_cons_of_next _ hi]; rw [execAll_cons_of_next _ hi] at h; exact ih h
    | fault r => simp [execAll, hi] at h
    | refused r => simp [execAll, hi] at h

/-- The presented response does not enter what a running command does: it only replaces it. -/
theorem execAll_cons_congr {i : Instr} {s t : State} (rest : List Instr) (h : exec i s = exec i t) :
    execAll (i :: rest) s = execAll (i :: rest) t := by simp [execAll, h]

/-! The fields of a packed or spliced pixel (40_pixel_channels.md R100, R120). -/

theorem fR_append (r : BitVec 5) (v : BitVec 11) : fR (r ++ v) = r := BitVec.extractLsb'_append_eq_left

theorem fR_packPixel (r g b : Byte) : fR (packPixel r g b) = trunc5 r := BitVec.extractLsb'_append_eq_left

theorem toNat_packPixel (r g b : Byte) :
    (packPixel r g b).toNat = (trunc5 r).toNat * 2048 + ((trunc6 g).toNat * 32 + (trunc5 b).toNat) := by
  refine (toNat_append_add (trunc5 r) (trunc6 g ++ trunc5 b)).trans ?_
  rw [toNat_append_add]
  norm_num

theorem fG_packPixel (r g b : Byte) : fG (packPixel r g b) = trunc6 g := by
  apply BitVec.eq_of_toNat_eq
  have hr := (trunc5 r).isLt
  have hg := (trunc6 g).isLt
  have hb := (trunc5 b).isLt
  rw [fG, BitVec.extractLsb'_toNat, toNat_packPixel, Nat.shiftRight_eq_div_pow]
  omega

theorem fB_packPixel (r g b : Byte) : fB (packPixel r g b) = trunc5 b := by
  apply BitVec.eq_of_toNat_eq
  have hb := (trunc5 b).isLt
  rw [fB, BitVec.extractLsb'_toNat, toNat_packPixel, Nat.shiftRight_eq_div_pow]
  omega

/-- The fields partition the pixel (10_state.md R22). -/
theorem fields_append (p : Half) : fR p ++ (fG p ++ fB p) = p := by
  apply BitVec.eq_of_toNat_eq
  refine (toNat_append_add (fR p) (fG p ++ fB p)).trans ?_
  rw [toNat_append_add]
  have hp := p.isLt
  simp only [fR, fG, fB, BitVec.extractLsb'_toNat, Nat.shiftRight_eq_div_pow]
  omega

/-! The three channels of a word 0 ++ r ++ g ++ b (30_encoding.md R79, R87). -/

theorem toNat_channels (r g b : Byte) :
    (0#8 ++ (r ++ (g ++ b)) : Word).toNat = r.toNat * 65536 + (g.toNat * 256 + b.toNat) := by
  refine (toNat_append_add 0#8 _).trans ?_
  rw [toNat_append_add, toNat_append_add]
  norm_num

theorem channelR_of_channels (r g b : Byte) : (0#8 ++ (r ++ (g ++ b)) : Word).extractLsb' 16 8 = r := by
  apply BitVec.eq_of_toNat_eq
  have hr := r.isLt
  have hg := g.isLt
  have hb := b.isLt
  rw [BitVec.extractLsb'_toNat, toNat_channels, Nat.shiftRight_eq_div_pow]
  omega

theorem channelG_of_channels (r g b : Byte) : (0#8 ++ (r ++ (g ++ b)) : Word).extractLsb' 8 8 = g := by
  apply BitVec.eq_of_toNat_eq
  have hg := g.isLt
  have hb := b.isLt
  rw [BitVec.extractLsb'_toNat, toNat_channels, Nat.shiftRight_eq_div_pow]
  omega

theorem channelB_of_channels (r g b : Byte) : (0#8 ++ (r ++ (g ++ b)) : Word).extractLsb' 0 8 = b := by
  apply BitVec.eq_of_toNat_eq
  have hb := b.isLt
  rw [BitVec.extractLsb'_toNat, toNat_channels, Nat.shiftRight_eq_div_pow]
  omega

end Sys2Proof.Machine
end

