-- ==== Sys2Proof/Laws/Raster.lean ====
section
/-! SUPPORT. The raster arithmetic of 41_raster_iterator.md R150 to R153 in naturals, and what the invariant INV says of a
position (10_state.md R28). -/

namespace Sys2Proof.Machine

/-- An offset inside the raster has its coordinate inside it (R153). -/
theorem rasterCoord_inside {w h off : Nat} (hoff : off < w * h) : 0 < w ∧ off % w < w ∧ off / w < h := by
  have hw : 0 < w := Nat.pos_of_ne_zero fun h0 => by simp [h0] at hoff
  exact ⟨hw, Nat.mod_lt _ hw, (Nat.div_lt_iff_lt_mul hw).2 (by rwa [Nat.mul_comm] at hoff)⟩

/-- coord is the inverse of done on the raster (R153). -/
theorem rasterDone_coord (w off : Nat) : rasterDone w (off % w) (off / w) = off := by
  rw [rasterDone, Nat.mul_comm]; exact Nat.div_add_mod off w

/-- done of a position in a row is its coordinate's inverse (R150). -/
theorem rasterCoord_done {w x y : Nat} (hx : x < w) : rasterCoord w (rasterDone w x y) = (x, y) := by
  have hw : 0 < w := by omega
  have h1 : (y * w + x) % w = x := by rw [Nat.add_comm, Nat.add_mul_mod_self_right, Nat.mod_eq_of_lt hx]
  have h2 : (y * w + x) / w = y := by rw [Nat.add_comm, Nat.add_mul_div_right _ _ hw, Nat.div_eq_of_lt hx, Nat.zero_add]
  simp [rasterCoord, rasterDone, h1, h2]

/-- Advancing moves the linear offset up by exactly 1 (R152). -/
theorem rasterDone_advance (w x y : Nat) :
    rasterDone w (rasterAdvance w x y).1 (rasterAdvance w x y).2 = rasterDone w x y + 1 := by
  unfold rasterAdvance rasterDone
  split
  · rename_i h
    rw [Nat.add_one_mul, ← h]
    omega
  · simp only
    omega

/-- Advancing from an offset's coordinate gives the next offset's coordinate (R152, R153). -/
theorem rasterAdvance_coord {w off : Nat} (hw : 0 < w) :
    rasterAdvance w (off % w) (off / w) = rasterCoord w (off + 1) := by
  have hx := Nat.mod_lt off hw
  by_cases h : off % w + 1 = w
  · have hd : rasterDone w 0 (off / w + 1) = off + 1 := by
      have := rasterDone_advance w (off % w) (off / w)
      rwa [rasterAdvance, if_pos h, rasterDone_coord] at this
    rw [rasterAdvance, if_pos h, ← hd, rasterCoord_done hw]
  · have hd : rasterDone w (off % w + 1) (off / w) = off + 1 := by
      have := rasterDone_advance w (off % w) (off / w)
      rwa [rasterAdvance, if_neg h, rasterDone_coord] at this
    rw [rasterAdvance, if_neg h, ← hd, rasterCoord_done (by omega)]

/-- The largest product of a width and a height (R150). -/
theorem rasterSize_le (w h : Half) : w.toNat * h.toNat ≤ 0xFFFE0001 := by
  have h1 : w.toNat ≤ 65535 := by have := w.isLt; omega
  have h2 : h.toNat ≤ 65535 := by have := h.isLt; omega
  calc w.toNat * h.toNat ≤ 65535 * 65535 := Nat.mul_le_mul h1 h2
    _ = 0xFFFE0001 := by norm_num

/-- INV in naturals (10_state.md R28). -/
theorem rasterInv_iff (w h x y : Half) :
    rasterInv w h x y ↔ y.toNat ≤ h.toNat ∧ (y.toNat < h.toNat → x.toNat < w.toNat) ∧
      (y.toNat = h.toNat → x.toNat = 0) := by
  simp [rasterInv, BitVec.le_def, BitVec.lt_def, ← BitVec.toNat_inj]

/-- Under INV the offset is at most the size of the raster, and reaches it in the terminal row only (R150, R151). -/
theorem rasterDone_le {w h x y : Half} (hi : rasterInv w h x y) :
    rasterDone w.toNat x.toNat y.toNat ≤ w.toNat * h.toNat ∧
    (rasterDone w.toNat x.toNat y.toNat = w.toNat * h.toNat ↔ y = h) := by
  obtain ⟨h1, h2, h3⟩ := (rasterInv_iff w h x y).1 hi
  rw [← BitVec.toNat_inj]
  rcases Nat.lt_or_ge y.toNat h.toNat with hlt | hge
  · have hx := h2 hlt
    have hm : (y.toNat + 1) * w.toNat ≤ h.toNat * w.toNat := Nat.mul_le_mul_right _ hlt
    rw [Nat.add_one_mul] at hm
    rw [Nat.mul_comm w.toNat]
    unfold rasterDone
    omega
  · have heq : y.toNat = h.toNat := by omega
    have hx := h3 heq
    simp [rasterDone, heq, hx, Nat.mul_comm]

end Sys2Proof.Machine
end

