-- ==== Sys2Proof/Laws/Effect.lean ====
section
/-! SUPPORT. Everything performing a command word can do, said once: `Effect op s t` lists the next states t that a word with
opcode op can leave from s, and `exec_effect` and `perform_effect` say that every command and every word has one. -/

namespace Sys2Proof.Machine

/-- The next states a word with opcode `op` can leave. -/
inductive Effect (op : Byte) (s : State) : State → Prop
  /-- The halted block answers (60_exceptions.md R205). -/
  | halted (run : s.flt = true) : Effect op s (s.haltedAnswer op)
  /-- A fault is taken (R201). -/
  | fault (c : FaultCode) (run : s.flt = false) : Effect op s (s.faulted (faultNumber c) op)
  /-- A value is returned, no register written (20_memory.md R55). -/
  | answer (d : Word) (f : Bool) (run : s.flt = false) : Effect op s (s.answering d f)
  /-- The whole pixel is written: PLD, PLDC, PACK. -/
  | load (v : Half) (run : s.flt = false) (who : op ∈ [0x01#8, 0x03#8, 0x10#8]) : Effect op s (s.loadPixel v).respondZero
  /-- A channel is written: SETR, SETG, SETB. -/
  | splice (v : Half) (run : s.flt = false) (valid : s.pv = true) (who : op ∈ [0x0C#8, 0x0D#8, 0x0E#8]) :
      Effect op s (s.setPixel v).respondZero
  /-- A sequence is started: IINIT. -/
  | start (w h : Half) (run : s.flt = false) (who : op = 0x20#8) : Effect op s (s.startRaster w h).respondZero
  /-- The iterator moves, INV kept: INEXT, ISKIP. -/
  | move (xy : Nat × Nat) (d : Word) (f : Bool) (run : s.flt = false) (valid : s.iv = true)
      (who : op ∈ [0x21#8, 0x23#8])
      (keeps : rasterInv s.w s.h s.x s.y → rasterInv s.w s.h (BitVec.ofNat 16 xy.1) (BitVec.ofNat 16 xy.2)) :
      Effect op s ((s.moveTo xy).answering d f)

/-- The start of a sequence satisfies INV, width 0 included (41_raster_iterator.md R155). -/
theorem rasterInv_start (w h : Half) : rasterInv w h 0#16 (startRow w h) := by
  rw [rasterInv_iff, startRow]
  split
  · simp
  · rename_i hw
    have : w.toNat ≠ 0 := by simpa [← BitVec.toNat_inj] using hw
    simp
    omega

/-- The terminal position satisfies INV. -/
theorem rasterInv_terminal (w h : Half) : rasterInv w h 0#16 h := by
  rw [rasterInv_iff]; simp

/-- Advancing from a coordinate of the raster satisfies INV (R152). -/
theorem rasterInv_advance {w h : Half} {x y : Nat} (hx : x < w.toNat) (hy : y < h.toNat) :
    rasterInv w h (BitVec.ofNat 16 (rasterAdvance w.toNat x y).1) (BitVec.ofNat 16 (rasterAdvance w.toNat x y).2) := by
  have hw := w.isLt
  have hh := h.isLt
  rw [rasterInv_iff, rasterAdvance]
  split
  · simp; omega
  · simp only [BitVec.toNat_ofNat]
    rw [Nat.mod_eq_of_lt (by omega), Nat.mod_eq_of_lt (by omega)]
    omega

/-- INEXT's effect in a running block with IV = 1. -/
theorem inext_effect {s : State} (hf : s.flt = false) (hi : s.iv = true) :
    Effect 0x21#8 s (if s.y < s.h then s.yieldAt (s.x.toNat, s.y.toNat) else s.respondZero) := by
  split
  · rename_i hy
    exact .move _ _ _ hf hi (by decide) fun h => rasterInv_advance (((rasterInv_iff _ _ _ _).1 h).2.1 hy) hy
  · exact .answer _ _ hf

/-- ISKIP's effect in a running block with IV = 1. -/
theorem iskip_effect {s : State} (n : Word) (hf : s.flt = false) (hi : s.iv = true) :
    Effect 0x23#8 s (if s.remaining ≤ n.toNat then (s.moveTo (0, s.h.toNat)).respondZero
      else s.yieldAt (rasterCoord s.w.toNat (s.done + n.toNat))) := by
  split
  · exact .move (0, s.h.toNat) _ _ hf hi (by decide) fun _ => by simpa using rasterInv_terminal s.w s.h
  · rename_i hn
    refine .move _ _ _ hf hi (by decide) fun h => ?_
    have hle : s.done ≤ s.w.toNat * s.h.toNat := (rasterDone_le h).1
    have hr : s.remaining = s.w.toNat * s.h.toNat - s.done := rfl
    obtain ⟨_, hx, hy⟩ := rasterCoord_inside (w := s.w.toNat) (h := s.h.toNat) (off := s.done + n.toNat) (by omega)
    exact rasterInv_advance hx hy

/-- The effect of a checked command, from its effect in a running block. -/
theorem whenRunning_effect {s : State} {op : Byte} {go : State → State} (run : s.flt = false → Effect op s (go s)) :
    Effect op s (s.whenRunning op go) := State.whenRunning_ind (Effect op s) s op go .halted run

theorem whenPixel_effect {s : State} {op : Byte} {go : State → State}
    (run : s.flt = false → s.pv = true → Effect op s (go s)) : Effect op s (s.whenPixel op go) :=
  State.whenPixel_ind (Effect op s) s op go .halted (fun h _ => .fault .pixelUnset h) run

theorem whenIter_effect {s : State} {op : Byte} {go : State → State}
    (run : s.flt = false → s.iv = true → Effect op s (go s)) : Effect op s (s.whenIter op go) :=
  State.whenIter_ind (Effect op s) s op go .halted (fun h _ => .fault .iterUnset h) run

/-- PLDC's effect, whatever the table. -/
theorem execPldcWith_effect (table : ColourTable) (k : BitVec 4) (s : State) :
    ∃ t, execPldcWith table k s = .next t ∧ Effect 0x03#8 s t := by
  refine ⟨_, rfl, whenRunning_effect fun h => ?_⟩
  cases constColour table k with
  | none => exact .fault .badConst h
  | some v => exact .load v h (by decide : 0x03#8 ∈ _)

/-- Every command answers a next state, and the effect is one of the list. -/
theorem exec_effect (i : Instr) (s : State) : ∃ t, exec i s = .next t ∧ Effect (opcodeOf i) s t := by
  cases i with
  | pld v => exact ⟨_, rfl, whenRunning_effect fun h => .load v h (by decide : 0x01#8 ∈ _)⟩
  | prd => exact ⟨_, rfl, whenPixel_effect fun h _ => .answer _ _ h⟩
  | pldc k => exact execPldcWith_effect _ k s
  | peq v => exact ⟨_, rfl, whenPixel_effect fun h _ => .answer _ _ h⟩
  | getr => exact ⟨_, rfl, whenPixel_effect fun h _ => .answer _ _ h⟩
  | getg => exact ⟨_, rfl, whenPixel_effect fun h _ => .answer _ _ h⟩
  | getb => exact ⟨_, rfl, whenPixel_effect fun h _ => .answer _ _ h⟩
  | setr u => exact ⟨_, rfl, whenPixel_effect fun h hp => .splice _ h hp (by decide : 0x0C#8 ∈ _)⟩
  | setg u => exact ⟨_, rfl, whenPixel_effect fun h hp => .splice _ h hp (by decide : 0x0D#8 ∈ _)⟩
  | setb u => exact ⟨_, rfl, whenPixel_effect fun h hp => .splice _ h hp (by decide : 0x0E#8 ∈ _)⟩
  | pack r g b => exact ⟨_, rfl, whenRunning_effect fun h => .load _ h (by decide : 0x10#8 ∈ _)⟩
  | unpk => exact ⟨_, rfl, whenPixel_effect fun h _ => .answer _ _ h⟩
  | iinit w h => exact ⟨_, rfl, whenRunning_effect fun hf => .start w h hf rfl⟩
  | inext => exact ⟨_, rfl, whenIter_effect fun h hi => inext_effect h hi⟩
  | irem => exact ⟨_, rfl, whenIter_effect fun h _ => .answer _ _ h⟩
  | iskip n => exact ⟨_, rfl, whenIter_effect fun h hi => iskip_effect n h hi⟩
  | stat => exact ⟨_, rfl, whenRunning_effect fun h => .answer _ _ h⟩

/-- The same with any table. -/
theorem execWith_effect (table : ColourTable) (i : Instr) (s : State) :
    ∃ t, execWith table i s = .next t ∧ Effect (opcodeOf i) s t := by
  cases i with
  | pldc k => exact execPldcWith_effect table k s
  | _ => rw [execWith_of_ne_pldc table s (by simp)]; exact exec_effect _ s

/-- A word that decodes to a command carries the command's opcode (30_encoding.md R83). -/
theorem opcodeOf_of_decode {op : Byte} {d : Word} {i : Instr} (h : decode op d = .cmd i) : opcodeOf i = op := by
  unfold decode at h
  split at h
  · cases h
  · rename_i hl
    split at h
    · cases h
      unfold lookupOp at hl
      split at hl <;> first | (cases hl; rfl) | cases hl
    · cases h

/-- Decoding raises two of the five faults only (R89). -/
theorem decode_fault_cases {op : Byte} {d : Word} {c : FaultCode} (h : decode op d = .fault c) :
    (c = .illegalOp ∧ lookupOp op d = none) ∨
    (c = .reservedOperand ∧ ∃ f i, lookupOp op d = some (f, i) ∧ d &&& mustBeZero f ≠ 0#32) := by
  unfold decode at h
  split at h
  · rename_i hl; cases h; exact .inl ⟨rfl, hl⟩
  · rename_i f i hl
    split at h
    · cases h
    · rename_i hm; cases h; exact .inr ⟨rfl, f, i, hl, hm⟩

/-- Performing any word with any table answers a next state, and the effect is one of the list. -/
theorem performWith_effect (table : ColourTable) (op : Byte) (d : Word) (s : State) :
    ∃ t, performWith table op d s = .next t ∧ Effect op s t := by
  cases hd : decode op d with
  | cmd i =>
    obtain ⟨t, ht, he⟩ := execWith_effect table i s
    rw [opcodeOf_of_decode hd] at he
    exact ⟨t, (performWith_of_cmd table s hd).trans ht, he⟩
  | fault c => exact ⟨_, performWith_of_fault table s hd, whenRunning_effect fun h => .fault c h⟩

/-- The same with the table `exec` runs with. -/
theorem perform_effect (op : Byte) (d : Word) (s : State) : ∃ t, perform op d s = .next t ∧ Effect op s t :=
  performWith_effect Config.colours op d s

end Sys2Proof.Machine
end

