-- ==== Sys2Proof/Laws/PerInstr.lean ====
section
/-! SUPPORT. One statement about every command as syntax: its encoded word carries its opcode and its operand word
(30_encoding.md R72), the opcode is none of the reserved values (R84), and no must-be-zero bit is 1 (R85, R92). -/

namespace Sys2Proof.Laws.EncodedWord

open Sys2Proof Sys2Proof.Machine

/-- The encoding of a command is OP ++ D with a defined OP and every must-be-zero bit 0. -/
def Statement (i : Instr) : Prop :=
  encode i = opcodeOf i ++ operandOf i ∧ reservedOp (opcodeOf i) = false ∧ reservedBitSet (opcodeOf i) (operandOf i) = false

/-- The upper field of an operand word with a zero upper field. -/
theorem upper_zero {m n : Nat} (v : BitVec n) : (0#m ++ v).extractLsb' n m = 0#m := BitVec.extractLsb'_append_eq_left

theorem pld (imm16 : Half) : Statement (.pld imm16) :=
  ⟨rfl, rfl, by simpa [reservedBitSet, opcodeOf, operandOf] using upper_zero (m := 16) imm16⟩

theorem prd : Statement .prd := ⟨rfl, rfl, rfl⟩

theorem pldc (k : BitVec 4) : Statement (.pldc k) :=
  ⟨rfl, rfl, by simpa [reservedBitSet, opcodeOf, operandOf] using upper_zero (m := 28) k⟩

theorem peq (imm16 : Half) : Statement (.peq imm16) :=
  ⟨rfl, rfl, by simpa [reservedBitSet, opcodeOf, operandOf] using upper_zero (m := 16) imm16⟩

theorem getr : Statement .getr := ⟨rfl, rfl, rfl⟩

theorem getg : Statement .getg := ⟨rfl, rfl, rfl⟩

theorem getb : Statement .getb := ⟨rfl, rfl, rfl⟩

theorem setr (imm8 : Byte) : Statement (.setr imm8) :=
  ⟨rfl, rfl, by simpa [reservedBitSet, opcodeOf, operandOf] using upper_zero (m := 24) imm8⟩

theorem setg (imm8 : Byte) : Statement (.setg imm8) :=
  ⟨rfl, rfl, by simpa [reservedBitSet, opcodeOf, operandOf] using upper_zero (m := 24) imm8⟩

theorem setb (imm8 : Byte) : Statement (.setb imm8) :=
  ⟨rfl, rfl, by simpa [reservedBitSet, opcodeOf, operandOf] using upper_zero (m := 24) imm8⟩

theorem pack (r g b : Byte) : Statement (.pack r g b) :=
  ⟨rfl, rfl, by simpa [reservedBitSet, opcodeOf, operandOf] using upper_zero (m := 8) (r ++ (g ++ b))⟩

theorem unpk : Statement .unpk := ⟨rfl, rfl, rfl⟩

theorem iinit (w h : Half) : Statement (.iinit w h) := ⟨rfl, rfl, rfl⟩

theorem inext : Statement .inext := ⟨rfl, rfl, rfl⟩

theorem irem : Statement .irem := ⟨rfl, rfl, rfl⟩

theorem iskip (n : Word) : Statement (.iskip n) := ⟨rfl, rfl, rfl⟩

theorem stat : Statement .stat := ⟨rfl, rfl, rfl⟩

end Sys2Proof.Laws.EncodedWord
end

