-- ==== Sys2Proof/Machine/Wire.lean ====
section
/-! DEFINITION. The byte order of a pixel word on the Limg wire (20_memory.md R52): informative, for whoever moves P to and from
a pixel plane. No command uses it. -/

namespace Sys2Proof.Machine

/-- The byte order named by the Limg header. -/
inductive WireOrder where
  | little | big
  deriving DecidableEq, Repr

/-- The bytes of a pixel word at offsets k and k+1. The little-endian line is the source's; the big-endian line is PRESUMED
(93_implementation_defined.md K7, log entry 12). -/
def wireBytes (order : WireOrder) (v : Half) : List Byte :=
  match order with
  | .little => [v.extractLsb' 0 8, v.extractLsb' 8 8]
  | .big => [v.extractLsb' 8 8, v.extractLsb' 0 8]

/-- The bytes of a pixel plane, pixel by pixel. -/
def wirePlane (order : WireOrder) (pixels : List Half) : List Byte :=
  pixels.flatMap (wireBytes order)

end Sys2Proof.Machine
end

