-- ==== Sys2Proof/Tests/Slice0.lean ====
section
/-! SUPPORT. Tests and witnesses. Expected results are the vectors of spec/95_test_vectors.md, named by their ids; each test runs
one step or one decode. The witnesses show states and operands that meet the hypotheses of each statement. -/

namespace Sys2Proof.Tests

open Sys2Proof Sys2Proof.Machine

/-- A running state with PV = 1 and the given pixel, all else as at reset. -/
def px (p : Half) : State := { State.reset with p := p, pv := true }

/-- A running state with IV = 1 and the given raster and position, all else as at reset. -/
def it (w h x y : Half) : State := { State.reset with w := w, h := h, x := x, y := y, iv := true }

/-- A halted state: the first fault was the reserved OP 0x05. -/
def halt : State := { State.reset with flt := true, fcode := 1#4, fop := 0x05#8 }

/-- The state one step after the host presents the word. -/
def after (s : State) (cw : CmdWord) : Option State :=
  match step (s.withCommand cw) with
  | .next t => some t
  | .fault _ => none
  | .refused _ => none

/-- The response one step after the host presents the word. -/
def reply (s : State) (cw : CmdWord) : Option Response := (after s cw).bind fun t => t.rsp

/-- X and Y one step after. -/
def pos (s : State) (cw : CmdWord) : Option (Half × Half) := (after s cw).map fun t => (t.x, t.y)

/-- P and PV one step after. -/
def pixel (s : State) (cw : CmdWord) : Option (Half × Bool) := (after s cw).map fun t => (t.p, t.pv)

/-- FLT, FCODE and FOP one step after. -/
def flt (s : State) (cw : CmdWord) : Option (Bool × BitVec 4 × Byte) := (after s cw).map fun t => (t.flt, t.fcode, t.fop)

/-! Decoding: one word per command, from the encoding vectors V-EN-01 to V-EN-17. -/

theorem test_decode_pld : decodeTableWord 40 0x010000F800 = some (.pld 0xF800#16) ∧ encode (.pld 0xF800#16) = 0x010000F800#40 := by decide

theorem test_decode_prd : decodeTableWord 40 0x0200000000 = some .prd ∧ encode .prd = 0x0200000000#40 := by decide

theorem test_decode_pldc : decodeTableWord 40 0x0300000007 = some (.pldc 7#4) ∧ encode (.pldc 7#4) = 0x0300000007#40 := by decide

theorem test_decode_peq : decodeTableWord 40 0x04000007E0 = some (.peq 0x07E0#16) ∧ encode (.peq 0x07E0#16) = 0x04000007E0#40 := by decide

theorem test_decode_getr : decodeTableWord 40 0x0800000000 = some .getr ∧ encode .getr = 0x0800000000#40 := by decide

theorem test_decode_getg : decodeTableWord 40 0x0900000000 = some .getg ∧ encode .getg = 0x0900000000#40 := by decide

theorem test_decode_getb : decodeTableWord 40 0x0A00000000 = some .getb ∧ encode .getb = 0x0A00000000#40 := by decide

theorem test_decode_setr : decodeTableWord 40 0x0C000000FF = some (.setr 0xFF#8) ∧ encode (.setr 0xFF#8) = 0x0C000000FF#40 := by decide

theorem test_decode_setg : decodeTableWord 40 0x0D00000080 = some (.setg 0x80#8) ∧ encode (.setg 0x80#8) = 0x0D00000080#40 := by decide

theorem test_decode_setb : decodeTableWord 40 0x0E0000001F = some (.setb 0x1F#8) ∧ encode (.setb 0x1F#8) = 0x0E0000001F#40 := by decide

theorem test_decode_pack : decodeTableWord 40 0x1000FF8008 = some (.pack 0xFF#8 0x80#8 0x08#8) ∧ encode (.pack 0xFF#8 0x80#8 0x08#8) = 0x1000FF8008#40 := by decide

theorem test_decode_unpk : decodeTableWord 40 0x1100000000 = some .unpk ∧ encode .unpk = 0x1100000000#40 := by decide

theorem test_decode_iinit : decodeTableWord 40 0x2000020003 = some (.iinit 3#16 2#16) ∧ encode (.iinit 3#16 2#16) = 0x2000020003#40 := by decide

theorem test_decode_inext : decodeTableWord 40 0x2100000000 = some .inext ∧ encode .inext = 0x2100000000#40 := by decide

theorem test_decode_irem : decodeTableWord 40 0x2200000000 = some .irem ∧ encode .irem = 0x2200000000#40 := by decide

theorem test_decode_iskip : decodeTableWord 40 0x2300010000 = some (.iskip 0x10000#32) ∧ encode (.iskip 0x10000#32) = 0x2300010000#40 := by decide

theorem test_decode_stat : decodeTableWord 40 0x3000000000 = some .stat ∧ encode .stat = 0x3000000000#40 := by decide

/-! Ill-formed words, one for each check of WellFormed.lean and of the decoder: V-EN-22 to V-EN-26, V-FL-06, V-FL-21, V-FL-22. -/

theorem test_wf_reserved_op : wordWellFormed 0x1200000000#40 = false ∧ opDefined 0x1200000000#40 = false ∧
    decodeWord 0x1200000000#40 = .fault .illegalOp := by decide

theorem test_wf_channel_code_three : wordWellFormed 0x0B00000000#40 = false ∧
    decodeWord 0x0B00000000#40 = .fault .illegalOp ∧ decodeWord 0x0F00000012#40 = .fault .illegalOp := by decide

theorem test_wf_reserved_class : wordWellFormed 0x4000000000#40 = false ∧
    decodeWord 0x4000000000#40 = .fault .illegalOp := by decide

theorem test_wf_format_n : wordWellFormed 0x2100000001#40 = false ∧ opDefined 0x2100000001#40 = true ∧
    decodeWord 0x2100000001#40 = .fault .reservedOperand := by decide

theorem test_wf_format_h : wordWellFormed 0x0100010000#40 = false ∧
    decodeWord 0x0100010000#40 = .fault .reservedOperand := by decide

theorem test_wf_format_b : wordWellFormed 0x0C00000100#40 = false ∧
    decodeWord 0x0C00000100#40 = .fault .reservedOperand := by decide

theorem test_wf_format_k : wordWellFormed 0x0300000010#40 = false ∧
    decodeWord 0x0300000010#40 = .fault .reservedOperand := by decide

theorem test_wf_format_t : wordWellFormed 0x1001000000#40 = false ∧
    decodeWord 0x1001000000#40 = .fault .reservedOperand := by decide

theorem test_wf_no_reserved_bits : wordWellFormed 0x20FFFFFFFF#40 = true ∧ wordWellFormed 0x23FFFFFFFF#40 = true := by
  decide

/-- R84: each class's unassigned opcodes are reserved. -/
theorem test_reserved_in_classes : reservedOp 0x05#8 = true ∧ reservedOp 0x0F#8 = true ∧ reservedOp 0x12#8 = true ∧
    reservedOp 0x24#8 = true ∧ reservedOp 0x31#8 = true ∧ reservedOp 0xFF#8 = true ∧ reservedOp 0x30#8 = false := by decide

/-! The pixel unit. -/

/-- V-PX-51. -/
theorem test_pld : pixel State.reset 0x010000FFFF#40 = some (0xFFFF#16, true) ∧
    reply State.reset 0x010000FFFF#40 = some ⟨false, false, 0#32⟩ := by decide

/-- V-PX-50. -/
theorem test_prd : reply (px 0xABCD#16) 0x0200000000#40 = some ⟨false, false, 0x0000ABCD#32⟩ := by decide

/-- V-PX-38 to V-PX-41. -/
theorem test_pldc_named : pixel State.reset 0x0300000001#40 = some (0xF800#16, true) ∧
    pixel State.reset 0x0300000002#40 = some (0x07E0#16, true) ∧
    pixel State.reset 0x0300000003#40 = some (0x001F#16, true) ∧
    pixel State.reset 0x0300000008#40 = some (0xFFFF#16, true) := by decide

/-- V-PX-46: GRAY is the parameter, whatever it is. -/
theorem test_pldc_gray : pixel State.reset 0x0300000007#40 = some (Config.grayValue, true) := rfl

/-- V-PX-42 to V-PX-45: the defaults of D17, configuration from general knowledge (log entry 3). -/
theorem test_pldc_defaults : ∀ gray : Half,
    (constColour { gray := gray } 0#4, constColour { gray := gray } 4#4) = (some 0x0000#16, some 0xF81F#16) ∧
    (constColour { gray := gray } 5#4, constColour { gray := gray } 6#4) = (some 0x07FF#16, some 0xFFE0#16) :=
  fun _ => ⟨rfl, rfl⟩

/-- 10_state.md R36: another table gives another colour. -/
theorem test_pldc_table : stepWith { black := 0x0821#16, gray := 0x8410#16 } (State.reset.withCommand 0x0300000000#40) =
    .next ((px 0x0821#16).answering 0#32 false) := rfl

/-- V-FL-07, V-FL-08, V-FL-09: BAD_CONST, after RESERVED_OPERAND. -/
theorem test_pldc_bad : flt State.reset 0x0300000009#40 = some (true, 3#4, 0x03#8) ∧
    flt State.reset 0x030000000F#40 = some (true, 3#4, 0x03#8) ∧
    flt State.reset 0x0300000019#40 = some (true, 2#4, 0x03#8) := by decide

/-- V-PX-47, V-PX-48. -/
theorem test_peq : reply (px 0xF800#16) 0x040000F800#40 = some ⟨false, true, 1#32⟩ ∧
    reply (px 0xF800#16) 0x040000F801#40 = some ⟨false, false, 0#32⟩ := by decide

/-- V-PX-14, V-PX-08. -/
theorem test_getr : reply (px 0x1234#16) 0x0800000000#40 = some ⟨false, false, 0x10#32⟩ ∧
    reply (px 0x8410#16) 0x0800000000#40 = some ⟨false, false, 0x84#32⟩ := by decide

/-- V-PX-15, V-PX-09. -/
theorem test_getg : reply (px 0x1234#16) 0x0900000000#40 = some ⟨false, false, 0x45#32⟩ ∧
    reply (px 0x8410#16) 0x0900000000#40 = some ⟨false, false, 0x82#32⟩ := by decide

/-- V-PX-16, V-PX-10. -/
theorem test_getb : reply (px 0x1234#16) 0x0A00000000#40 = some ⟨false, false, 0xA5#32⟩ ∧
    reply (px 0x8410#16) 0x0A00000000#40 = some ⟨false, false, 0x84#32⟩ := by decide

/-- V-PX-18, V-PX-20 (truncation, not rounding), V-PX-23. -/
theorem test_setr : pixel (px 0x1234#16) 0x0C000000FF#40 = some (0xFA34#16, true) ∧
    pixel (px 0x0000#16) 0x0C00000007#40 = some (0x0000#16, true) ∧
    pixel (px 0xFFFF#16) 0x0C00000000#40 = some (0x07FF#16, true) := by decide

/-- V-PX-19, V-PX-24, V-PX-26. -/
theorem test_setg : pixel (px 0x1234#16) 0x0D00000080#40 = some (0x1414#16, true) ∧
    pixel (px 0xFFFF#16) 0x0D00000000#40 = some (0xF81F#16, true) ∧
    pixel (px 0x0000#16) 0x0D000000FF#40 = some (0x07E0#16, true) := by decide

/-- V-PX-21, V-PX-22, V-PX-25. -/
theorem test_setb : pixel (px 0x1234#16) 0x0E00000007#40 = some (0x1220#16, true) ∧
    pixel (px 0x1234#16) 0x0E000000FF#40 = some (0x123F#16, true) ∧
    pixel (px 0xFFFF#16) 0x0E00000000#40 = some (0xFFE0#16, true) := by decide

/-- V-PX-29, V-PX-32, V-PX-33 (truncation, not rounding). -/
theorem test_pack : pixel State.reset 0x1000FF8008#40 = some (0xFC01#16, true) ∧
    pixel State.reset 0x1000123456#40 = some (0x11AA#16, true) ∧
    pixel State.reset 0x1000070307#40 = some (0x0000#16, true) := by decide

/-- V-PX-12, V-PX-17. -/
theorem test_unpk : reply (px 0xA5A5#16) 0x1100000000#40 = some ⟨false, false, 0x00A5B629#32⟩ ∧
    reply (px 0x1234#16) 0x1100000000#40 = some ⟨false, false, 0x001045A5#32⟩ := by decide

/-- V-FL-10 to V-FL-14: PIXEL_UNSET, after RESERVED_OPERAND, with the error response. -/
theorem test_pixel_unset : flt State.reset 0x0800000000#40 = some (true, 4#4, 0x08#8) ∧
    flt State.reset 0x0E00000012#40 = some (true, 4#4, 0x0E#8) ∧
    flt State.reset 0x1100000000#40 = some (true, 4#4, 0x11#8) ∧
    flt State.reset 0x0400000000#40 = some (true, 4#4, 0x04#8) ∧
    flt State.reset 0x0E000001FF#40 = some (true, 2#4, 0x0E#8) ∧
    reply State.reset 0x0800000000#40 = some ⟨true, false, 0#32⟩ := by decide

/-! The raster iterator unit. -/

/-- V-IT-01, V-IT-03 (width 0), V-IT-06 (height 0), V-IT-32 (restart). -/
theorem test_iinit : after State.reset 0x2000020003#40 = some ((it 3 2 0 0).answering 0#32 false) ∧
    pos State.reset 0x2000050000#40 = some (0#16, 5#16) ∧ pos State.reset 0x2000000004#40 = some (0#16, 0#16) ∧
    pos (it 3 2 2 0) 0x2000020002#40 = some (0#16, 0#16) := by decide

/-- V-IT-23, V-IT-24, V-IT-09. -/
theorem test_inext_yields : after (it 3 2 2 0) 0x2100000000#40 = some ((it 3 2 0 1).answering 0x00000002#32 true) ∧
    after (it 3 2 0 1) 0x2100000000#40 = some ((it 3 2 1 1).answering 0x00010000#32 true) ∧
    after (it 1 1 0 0) 0x2100000000#40 = some ((it 1 1 0 1).answering 0#32 true) := by decide

/-- V-IT-10, V-IT-04: None, nothing changes. -/
theorem test_inext_none : after (it 1 1 0 1) 0x2100000000#40 = some ((it 1 1 0 1).answering 0#32 false) ∧
    after (it 0 5 0 5) 0x2100000000#40 = some ((it 0 5 0 5).answering 0#32 false) := by decide

/-- V-IT-20, V-IT-27, V-IT-31, V-IT-05. -/
theorem test_irem : reply (it 3 2 1 1) 0x2200000000#40 = some ⟨false, false, 2#32⟩ ∧
    reply (it 0xFFFF 0xFFFF 0 0) 0x2200000000#40 = some ⟨false, false, 0xFFFE0001#32⟩ ∧
    reply (it 0xFFFF 0xFFFF 2 1) 0x2200000000#40 = some ⟨false, false, 0xFFFD0000#32⟩ ∧
    reply (it 0 5 0 5) 0x2200000000#40 = some ⟨false, false, 0#32⟩ := by decide

/-- V-IT-11, V-IT-13, V-IT-15, V-IT-28, V-IT-30. -/
theorem test_iskip_yields : after (it 3 2 1 0) 0x2300000002#40 = some ((it 3 2 1 1).answering 0x00010000#32 true) ∧
    after (it 3 2 0 0) 0x2300000005#40 = some ((it 3 2 0 2).answering 0x00010002#32 true) ∧
    after (it 3 2 0 0) 0x2300000002#40 = some ((it 3 2 0 1).answering 0x00000002#32 true) ∧
    after (it 0xFFFF 0xFFFF 0 0) 0x23FFFE0000#40 = some ((it 0xFFFF 0xFFFF 0 0xFFFF).answering 0xFFFEFFFE#32 true) ∧
    after (it 0xFFFF 0xFFFF 0 0) 0x2300010000#40 = some ((it 0xFFFF 0xFFFF 2 1).answering 0x00010001#32 true) := by decide

/-- V-IT-12, V-IT-16, V-IT-29 (remaining = n), V-IT-14, V-IT-18. -/
theorem test_iskip_none : after (it 3 2 0 0) 0x2300000006#40 = some ((it 3 2 0 2).answering 0#32 false) ∧
    after (it 3 2 1 0) 0x2300000005#40 = some ((it 3 2 0 2).answering 0#32 false) ∧
    after (it 0xFFFF 0xFFFF 0 0) 0x23FFFE0001#40 = some ((it 0xFFFF 0xFFFF 0 0xFFFF).answering 0#32 false) ∧
    after (it 3 2 0 0) 0x23FFFFFFFF#40 = some ((it 3 2 0 2).answering 0#32 false) ∧
    after (it 3 2 0 2) 0x2300000000#40 = some ((it 3 2 0 2).answering 0#32 false) := by decide

/-- V-FL-15 to V-FL-18, V-FL-22: ITER_UNSET, after RESERVED_OPERAND. -/
theorem test_iter_unset : flt State.reset 0x2100000000#40 = some (true, 5#4, 0x21#8) ∧
    flt State.reset 0x2200000000#40 = some (true, 5#4, 0x22#8) ∧
    flt State.reset 0x2300000000#40 = some (true, 5#4, 0x23#8) ∧
    flt (px 0x1234#16) 0x2100000000#40 = some (true, 5#4, 0x21#8) ∧
    flt State.reset 0x2100000001#40 = some (true, 2#4, 0x21#8) := by decide

/-! Control and faults. -/

/-- V-CT-01, V-CT-02, V-CT-04, V-CT-07: STATUS, in the halted block whatever D holds. -/
theorem test_stat : reply State.reset 0x3000000000#40 = some ⟨false, false, 0#32⟩ ∧
    reply { it 0 0 0 0 with p := 1#16, pv := true } 0x3000000000#40 = some ⟨false, false, 7#32⟩ ∧
    reply (it 1 1 0 1) 0x3000000000#40 = some ⟨false, false, 6#32⟩ ∧
    reply halt 0x30FFFFFFFF#40 = some ⟨false, false, 0x0518#32⟩ := by decide

/-- V-CT-05, V-CT-06: STAT with a non-zero D faults in the running block. -/
theorem test_stat_reserved : flt State.reset 0x3000000001#40 = some (true, 2#4, 0x30#8) ∧
    reply (State.reset.faulted 2#4 0x30#8) 0x3000000000#40 = some ⟨false, false, 0x3028#32⟩ := by decide

/-- V-FL-01 to V-FL-05. -/
theorem test_illegal_op : flt State.reset 0x0000000000#40 = some (true, 1#4, 0x00#8) ∧
    flt State.reset 0x0B00000000#40 = some (true, 1#4, 0x0B#8) ∧ flt State.reset 0x0F00000012#40 = some (true, 1#4, 0x0F#8) ∧
    flt State.reset 0xFF00000000#40 = some (true, 1#4, 0xFF#8) ∧ flt State.reset 0x2400000000#40 = some (true, 1#4, 0x24#8) :=
  by decide

/-- V-FL-23, V-FL-24: the halted block changes nothing. -/
theorem test_halted : after halt 0x0100001234#40 = some halt.erroring ∧ after halt 0x0600000000#40 = some halt.erroring := by
  decide

/-- V-FL-25: a fault is precise. -/
theorem test_precise : after (px 0x1234#16) 0x0C00000100#40 = some ((px 0x1234#16).faulted 2#4 0x0C#8) := by decide

/-- R71: delivery asserts cmd_ready again; a word driven before it has no effect. -/
theorem test_handshake :
    (match step { (px 0x1234#16).answering 5#32 true with host := [⟨false, true, 0x01#8, 0#32, false⟩] } with
      | .next t => t == (px 0x1234#16).answering 5#32 true
      | _ => false) = true ∧
    (match step { (px 0x1234#16).answering 5#32 true with host := [⟨false, true, 0x01#8, 0#32, true⟩] } with
      | .next t => t == px 0x1234#16
      | _ => false) = true := by decide

/-- PR4: reset clears the fault state and PV, and discards an undelivered response. -/
theorem test_reset :
    (match step { halt.erroring with pv := true, host := [⟨true, true, 0x01#8, 0#32, true⟩] } with
      | .next t => t == State.reset
      | _ => false) = true := by decide

/-- The word withFetchWord places runs in the very next step. -/
theorem test_fetch_word :
    (match step (halt.withFetchWord 40 0x3000000000) with
      | .next t => t == halt.answering 0x0518#32 false
      | _ => false) = true := by decide

/-! The assembler and the wire. -/

/-- R92: `PACK 0xFF, 0x80, 0x08`, with a comment, in lower case. -/
theorem test_asm_pack : assembleLines [['p', 'a', 'c', 'k', ' ', '0', 'x', 'F', 'F', ',', ' ', '0', 'x', '8', '0', ',', '8', ' ',
    ';', 'x']] = some [0x1000FF8008#40] := by decide

/-- R90, R91: `PLDC Red`, `INTH 5`, `PCLR`, `.word 0x05, 0`, a comment line. -/
theorem test_asm_pseudo : assembleLines [['P', 'L', 'D', 'C', ' ', 'R', 'e', 'd'], ['I', 'N', 'T', 'H', ' ', '5'],
    ['P', 'C', 'L', 'R'], ['.', 'w', 'o', 'r', 'd', ' ', '0', 'x', '0', '5', ',', ' ', '0'], [';', 'P', 'L', 'D']] =
    some [0x0300000001#40, 0x2300000005#40, 0x0100000000#40, 0x0500000000#40] := by decide

/-- R90: an operand that does not fit is an assembly error; a constant index from 9 to 15 is not. -/
theorem test_asm_reject : assemble ⟨.setr, [.num 0x100]⟩ = none ∧ assemble ⟨.pldc, [.num 16]⟩ = none ∧
    assemble ⟨.pldc, [.num 9]⟩ = some 0x0300000009#40 ∧ readLine ['S', 'E', 'T', 'R', ' ', '0', 'b', '2'] = none := by decide

/-- 20_memory.md R52: RED, GREEN, BLUE, WHITE on the wire. -/
theorem test_wire : wirePlane .little [0xF800#16, 0x07E0#16, 0x001F#16, 0xFFFF#16] =
    [0x00#8, 0xF8#8, 0xE0#8, 0x07#8, 0x1F#8, 0x00#8, 0xFF#8, 0xFF#8] := by decide

/-! Witnesses: each shows that the hypotheses of the statement it is named after can be met together, clause by clause, at a
boundary where a clause has one. A statement with no hypotheses has none. -/

theorem witness_PldLoadsTheRawPixel : State.reset.flt = false ∧ (0x0000FFFF#32).extractLsb' 16 16 = 0#16 ∧ (0x00010000#32).extractLsb' 16 16 ≠ 0#16 := by decide

theorem witness_PrdReadsTheRawPixel : ((px 1#16).flt = false ∧ (px 1#16).pv = true) ∧ (State.reset.flt = false ∧ State.reset.pv = false) ∧ 1#32 ≠ 0#32 := by decide

theorem witness_PldcLoadsTheConstantOrFaults : State.reset.flt = false ∧ constColour Config.colours 8#4 = some 0xFFFF#16 ∧
    constColour { gray := 0x8410#16 } 7#4 = some 0x8410#16 ∧ 8#4 < 9#4 ∧
    (15#32).extractLsb' 4 28 = 0#28 ∧ (16#32).extractLsb' 4 28 ≠ 0#28 := by
  refine ⟨rfl, rfl, ?_, ?_, ?_, ?_⟩ <;> decide

theorem witness_PeqComparesAllSixteenBits : ((px 1#16).flt = false ∧ (px 1#16).pv = true) ∧ (State.reset.flt = false ∧ State.reset.pv = false) ∧
    (0x0000FFFF#32).extractLsb' 16 16 = 0#16 ∧ (0x00010000#32).extractLsb' 16 16 ≠ 0#16 := by decide

theorem witness_GetrReadsRedByReplication : ((px 1#16).flt = false ∧ (px 1#16).pv = true) ∧ (State.reset.flt = false ∧ State.reset.pv = false) ∧
    1#32 ≠ 0#32 := by decide

theorem witness_GetgReadsGreenByReplication : ((px 1#16).flt = false ∧ (px 1#16).pv = true) ∧ (State.reset.flt = false ∧ State.reset.pv = false) ∧
    1#32 ≠ 0#32 := by decide

theorem witness_GetbReadsBlueByReplication : ((px 1#16).flt = false ∧ (px 1#16).pv = true) ∧ (State.reset.flt = false ∧ State.reset.pv = false) ∧
    1#32 ≠ 0#32 := by decide

theorem witness_UnpkUnpacksThreeChannels : ((px 1#16).flt = false ∧ (px 1#16).pv = true) ∧ (State.reset.flt = false ∧ State.reset.pv = false) ∧
    1#32 ≠ 0#32 := by decide

theorem witness_SetrSplicesRedByTruncation : ((px 1#16).flt = false ∧ (px 1#16).pv = true) ∧ (State.reset.flt = false ∧ State.reset.pv = false) ∧
    (0xFF#32).extractLsb' 8 24 = 0#24 ∧ (0x100#32).extractLsb' 8 24 ≠ 0#24 := by decide

theorem witness_SetgSplicesGreenByTruncation : ((px 1#16).flt = false ∧ (px 1#16).pv = true) ∧ (State.reset.flt = false ∧ State.reset.pv = false) ∧
    (0xFF#32).extractLsb' 8 24 = 0#24 ∧ (0x100#32).extractLsb' 8 24 ≠ 0#24 := by decide

theorem witness_SetbSplicesBlueByTruncation : ((px 1#16).flt = false ∧ (px 1#16).pv = true) ∧ (State.reset.flt = false ∧ State.reset.pv = false) ∧
    (0xFF#32).extractLsb' 8 24 = 0#24 ∧ (0x100#32).extractLsb' 8 24 ≠ 0#24 := by decide

theorem witness_PackPacksThreeTruncatedChannels : State.reset.flt = false ∧ (0x00FFFFFF#32).extractLsb' 24 8 = 0#8 ∧
    (0x01000000#32).extractLsb' 24 8 ≠ 0#8 := by decide

theorem witness_PackEqualsThreeSets : ((px 1#16).flt = false ∧ (px 1#16).pv = true) ∧ (State.reset.flt = false ∧ State.reset.pv = false) := by decide

theorem witness_UnpkEqualsThreeGets : (px 1#16).flt = false ∧ (px 1#16).pv = true := by decide

theorem witness_PackAndUnpackRoundTrip : (px 1#16).flt = false ∧ (px 1#16).pv = true := by decide

theorem witness_ExpansionAndTruncationLaws : 0#5 < 1#5 ∧ 0#6 < 1#6 := by decide

theorem witness_IinitStartsAFreshSequence : State.reset.flt = false := by decide

theorem witness_InextYieldsAndAdvances : ((it 3 2 0 0).flt = false ∧ (it 3 2 0 0).iv = true) ∧ (State.reset.flt = false ∧ State.reset.iv = false) ∧ 1#32 ≠ 0#32 := by decide

theorem witness_IremReportsTheExactRemainingCount : ((it 3 2 0 0).flt = false ∧ (it 3 2 0 0).iv = true) ∧ (State.reset.flt = false ∧ State.reset.iv = false) ∧ 1#32 ≠ 0#32 := by decide

/-- Remaining is 2 at (1, 1) of the 3 x 2 raster: n = 2 ends the sequence, n = 1 yields (2, 1). -/
theorem witness_IskipSkipsAndYields : ((it 3 2 0 0).flt = false ∧ (it 3 2 0 0).iv = true) ∧ (State.reset.flt = false ∧ State.reset.iv = false) ∧
    (it 3 2 1 1).y.toNat * (it 3 2 1 1).w.toNat + (it 3 2 1 1).x.toNat = 4 ∧ (3 * 2 - 4 ≤ (2#32).toNat) ∧
    ((1#32).toNat < 3 * 2 - 4 ∧ 2 = (4 + (1#32).toNat) % 3 ∧ 1 = (4 + (1#32).toNat) / 3) := by decide

theorem witness_SequenceVisitsEveryCoordinateOnceInOrder : State.reset.flt = false ∧ 2 < (3#16).toNat ∧ 1 < (2#16).toNat := by decide

/-- The last coordinate, the terminal position, and the empty raster satisfy INV. -/
theorem witness_SkipEqualsRepeatedNext : (it 3 2 2 1).iv = true ∧ rasterInv 3#16 2#16 2#16 1#16 ∧ rasterInv 3#16 2#16 0#16 2#16 ∧
    rasterInv 0#16 5#16 0#16 5#16 := by decide

theorem witness_RemainingCountsTheFurtherYields : (it 3 2 2 1).flt = false ∧ (it 3 2 2 1).iv = true ∧ rasterInv 3#16 2#16 2#16 1#16 := by decide

theorem witness_SkipZeroIsNext : ((it 3 2 2 1).iv = true ∧ rasterInv 3#16 2#16 2#16 1#16) ∧ (State.reset.flt = false ∧ State.reset.iv = false) := by decide

theorem witness_RasterArithmeticNeverWraps : rasterInv 3#16 2#16 1#16 1#16 ∧ (1#32).toNat < rasterRemaining 3 2 1 1 ∧
    5 = rasterDone 3 1 1 + (1#32).toNat ∧ 2 = (rasterCoord 3 5).1 ∧ 1 = (rasterCoord 3 5).2 := by decide

theorem witness_StatReadsStatusEvenWhenHalted : State.reset.flt = false ∧ halt.flt = true ∧ 1#32 ≠ 0#32 := by decide

/-- An accepted PLDC; two tables that agree at BLACK and differ at GRAY; a command that is no PLDC; a reset. -/
theorem witness_TheColourTableIsAnArgumentOfTheStep :
    ((State.reset.withCommand 0x0300000007#40).host = presentCommand 0x03#8 7#32 :: [] ∧
      (presentCommand 0x03#8 7#32).rst = false ∧ (presentCommand 0x03#8 7#32).cmdValid = true ∧
      (State.reset.withCommand 0x0300000007#40).rsp = none ∧ decode 0x03#8 7#32 = .cmd (.pldc 7#4)) ∧
    constColour { gray := 0x8410#16 } 0#4 = constColour { gray := 0x7BEF#16 } 0#4 ∧
    (∀ k, Instr.prd ≠ .pldc k) ∧
    ({ halt with host := [⟨true, false, 0#8, 0#32, false⟩] } : State).host = [⟨true, false, 0#8, 0#32, false⟩] := by
  decide

/-- A word that answers a next state. -/
theorem witness_OnlyTheNamedCommandsWriteARegister :
    perform 0x01#8 5#32 State.reset = .next ((px 5#16).answering 0#32 false) := rfl

theorem witness_ReadCommandsAreIdempotent : isReadCommand .prd = true ∧
    exec .prd (px 5#16) = .next ((px 5#16).answering 5#32 false) ∧ ((px 5#16).answering 5#32 false).flt = false :=
  ⟨rfl, rfl, rfl⟩

theorem witness_UnitsAreIndependent : (isPixelCommand .prd = true ∧ exec .prd (px 5#16) = .next ((px 5#16).answering 5#32 false)) ∧
    (isIterCommand .irem = true ∧ exec .irem (it 3 2 0 0) = .next ((it 3 2 0 0).answering 6#32 false)) :=
  ⟨⟨rfl, rfl⟩, rfl, rfl⟩

theorem witness_EncodeOfDecodeIsTheWord : decodeWord 0x0D00000080#40 = .cmd (.setg 0x80#8) := by decide

theorem witness_DecodeAgreesWithTheOpcodeTable : opDefined 0x0B00000000#40 = false ∧
    (opDefined 0x0C00000100#40 = true ∧ wordWellFormed 0x0C00000100#40 = false) := by decide

/-- Each of the five faults, and none. -/
theorem witness_FaultsAreExactlyTheNamedOnes : State.reset.flt = false ∧
    expectedFault 0x0B#8 0#32 false false = 1#4 ∧ expectedFault 0x03#8 0x19#32 false false = 2#4 ∧
    expectedFault 0x03#8 9#32 false false = 3#4 ∧ expectedFault 0x02#8 0#32 false true = 4#4 ∧
    expectedFault 0x23#8 0#32 true false = 5#4 ∧ expectedFault 0x03#8 8#32 false false = 0#4 := by decide

theorem witness_HaltedBlockAnswersOnlyStat : halt.flt = true ∧
    step { halt with host := [⟨true, false, 0#8, 0#32, false⟩] } = .next State.reset ∧ State.reset.flt = false :=
  ⟨rfl, rfl, rfl⟩

theorem witness_OnlyResetClearsTheStickyState : step halt = .next halt ∧
    (∀ m later, halt.host = m :: later → m.rst = false) ∧ halt.flt = true ∧ (px 1#16).pv = true ∧ (it 3 2 0 0).iv = true :=
  ⟨rfl, (fun _ _ h => nomatch h), rfl, rfl, rfl⟩

/-- A reset while a word and a delivery are driven too. -/
theorem witness_ResetClearsAtAnyMoment :
    ({ halt.erroring with host := [⟨true, true, 0x01#8, 0#32, true⟩] } : State).host = [⟨true, true, 0x01#8, 0#32, true⟩] ∧
    step { halt.erroring with host := [⟨true, true, 0x01#8, 0#32, true⟩] } = .next State.reset :=
  ⟨rfl, rfl⟩

/-- A step from a state with IV = 1 that meets the invariant. -/
theorem witness_EveryStepKeepsTheMachineInvariant : (it 3 2 2 1).Inv ∧
    step ((it 3 2 2 1).withCommand 0x2100000000#40) = .next ((it 3 2 0 2).answering 0x00010002#32 true) :=
  ⟨by decide, rfl⟩

theorem witness_StepRunsTheDecodedCommand :
    (State.reset.withCommand 0x0100000005#40).host = presentCommand 0x01#8 5#32 :: [] ∧
    (presentCommand 0x01#8 5#32).rst = false ∧ (presentCommand 0x01#8 5#32).cmdValid = true ∧
    (State.reset.withCommand 0x0100000005#40).rsp = none ∧ decode 0x01#8 5#32 = .cmd (.pld 5#16) := by decide

/-- The four moments of the handshake, and none. -/
theorem witness_HandshakeMovesOneCommandAtATime : State.reset.cmdReady = true ∧ halt.erroring.cmdReady = false ∧
    (presentCommand 0x01#8 5#32).cmdValid = true ∧ (⟨false, false, 0#8, 0#32, true⟩ : HostDrive).cmdValid = false ∧
    (⟨false, false, 0#8, 0#32, true⟩ : HostDrive).rspReady = true ∧ (presentCommand 0x01#8 5#32).rspReady = false ∧
    State.reset.host = [] := by decide

theorem witness_RunHasFaultedExactlyWhenFltIsSet : State.reset.flt = false ∧ State.reset.rsp = none := ⟨rfl, rfl⟩

/-- Two states that differ in P with PV = 0 and in W with IV = 0. -/
theorem witness_UnwrittenRegistersAreNeverObservable :
    SameToHost State.reset { State.reset with p := 0xABCD#16, w := 7#16 } ∧ step State.reset = .next State.reset :=
  ⟨⟨rfl, by decide, rfl, by decide, rfl, rfl, rfl, rfl, rfl⟩, rfl⟩

end Sys2Proof.Tests
end

/-! ## What one step can do -/

section
namespace Sys2Proof.Machine

/-- The next states a step can leave, one constructor per kind of moment (30_encoding.md R71). -/
inductive StepEffect (s : State) : State → Prop
  /-- The host drives nothing. -/
  | idle (quiet : s.host = []) : StepEffect s s
  /-- A moment of reset (70_reset_and_hazards.md R230). -/
  | reset (m : HostDrive) (later : List HostDrive) (drive : s.host = m :: later) (rst : m.rst = true) :
      StepEffect s { s with host := later }.resetBlock
  /-- The host waits, or drives a word that is not accepted (R237). -/
  | wait (m : HostDrive) (later : List HostDrive) (drive : s.host = m :: later) (rst : m.rst = false) :
      StepEffect s { s with host := later }
  /-- The outstanding response is delivered. -/
  | deliver (m : HostDrive) (later : List HostDrive) (drive : s.host = m :: later) (rst : m.rst = false) :
      StepEffect s { s with host := later }.deliver
  /-- A word is accepted and performed. -/
  | accept (m : HostDrive) (later : List HostDrive) (t : State) (drive : s.host = m :: later) (rst : m.rst = false)
      (performed : Effect m.cmdOp { s with host := later } t) : StepEffect s t

/-- The next state of a performed word is one of its effects. -/
theorem effect_of_perform {op : Byte} {d : Word} {s t : State} (h : perform op d s = .next t) : Effect op s t := by
  obtain ⟨u, hu, he⟩ := perform_effect op d s
  cases hu.symm.trans h
  exact he

/-- The next state of a step is one of its effects. -/
theorem stepEffect_of_step {s t : State} (h : step s = .next t) : StepEffect s t := by
  rcases hh : s.host with _ | ⟨m, later⟩
  · cases (step_of_idle hh).symm.trans h
    exact .idle hh
  · rw [step_of_drive hh] at h
    cases hr : m.rst with
    | true =>
      cases (onDriveWith_of_reset _ _ hr).symm.trans h
      exact .reset m later hh hr
    | false =>
      by_cases ha : s.rsp = none ∧ m.cmdValid = true
      · obtain ⟨hc, hv⟩ := ha
        rw [onDriveWith_of_accept _ (s := { s with host := later }) hr hv hc] at h
        exact .accept m later t hh hr (effect_of_perform h)
      · have hno : s.rsp ≠ none ∨ m.cmdValid = false := by
          rwa [← Bool.not_eq_true, ne_eq, ← not_and_or]
        rcases onDriveWith_of_no_accept Config.colours (s := { s with host := later }) hr hno with hw | hd
        · cases hw.symm.trans h
          exact .wait m later hh hr
        · cases hd.symm.trans h
          exact .deliver m later hh hr

end Sys2Proof.Machine
end

/-! ## The machine invariant (10_state.md R28, R29, 30_encoding.md R88) -/

section
namespace Sys2Proof.Machine

/-- Reset satisfies the invariant, whatever the host drives later. -/
theorem State.Inv.resetBlock (s : State) : s.resetBlock.Inv := ⟨nofun, ⟨fun _ => ⟨rfl, rfl⟩, nofun⟩, rfl⟩

/-- Without a response the third part of the invariant says nothing. -/
theorem State.Inv.deliver {s : State} (h : s.Inv) : s.deliver.Inv := ⟨h.1, h.2.1, rfl⟩

/-- A normal response may be presented in any state. -/
theorem State.Inv.answering {s : State} (h : s.Inv) (d : Word) (f : Bool) : (s.answering d f).Inv := ⟨h.1, h.2.1, rfl⟩

/-- The error response may be presented by a halted block. -/
theorem State.Inv.erroring {s : State} (h : s.Inv) (halted : s.flt = true) : s.erroring.Inv :=
  ⟨h.1, h.2.1, by simp [State.responseOk, halted]⟩

/-- The five fault numbers are 1 to 5 (60_exceptions.md R202). -/
theorem faultNumber_range (c : FaultCode) : 1#4 ≤ faultNumber c ∧ faultNumber c ≤ 5#4 := by cases c <;> decide

/-- Taking a fault records one of the five codes and halts the block. -/
theorem State.Inv.faulted {s : State} (h : s.Inv) (c : FaultCode) (op : Byte) :
    (s.faulted (faultNumber c) op).Inv :=
  ⟨h.1, ⟨nofun, fun _ => faultNumber_range c⟩, rfl⟩

/-- The halted answer is STATUS or the error response of a halted block. -/
theorem State.Inv.haltedAnswer {s : State} (h : s.Inv) (halted : s.flt = true) (op : Byte) :
    (s.haltedAnswer op).Inv := by
  rw [State.haltedAnswer_eq]
  split
  · exact h.answering _ _
  · exact h.erroring halted

/-- Every effect of a command word keeps the invariant. -/
theorem Effect.keeps_inv {op : Byte} {s t : State} (h : s.Inv) (he : Effect op s t) : t.Inv := by
  have ⟨hiter, hfault, _⟩ := h
  cases he with
  | halted run => exact h.haltedAnswer run op
  | fault c run => exact h.faulted c op
  | answer d f run => exact h.answering d f
  | load v run who => exact ⟨hiter, hfault, rfl⟩
  | splice v run valid who => exact ⟨hiter, hfault, rfl⟩
  | start w h run who => exact ⟨fun _ => rasterInv_start w h, hfault, rfl⟩
  | move xy d f run valid who keeps => exact ⟨fun _ => keeps (hiter valid), hfault, rfl⟩

end Sys2Proof.Machine

open Sys2Proof.Machine

/-- Settles O46. -/
theorem resetSatisfiesTheMachineInvariant : Obligations.ResetSatisfiesTheMachineInvariant :=
  State.Inv.resetBlock State.reset

/-- Settles O47: by the kind of moment; the host's later drives are no part of the invariant. -/
theorem everyStepKeepsTheMachineInvariant : Obligations.EveryStepKeepsTheMachineInvariant := by
  intro s t h hstep
  cases stepEffect_of_step hstep with
  | idle => exact h
  | reset m later => exact State.Inv.resetBlock _
  | wait m later => exact h
  | deliver m later => exact State.Inv.deliver (s := { s with host := later }) h
  | accept m later t drive rst performed => exact Effect.keeps_inv (s := { s with host := later }) h performed

end

/-! ## Which commands write which register (10_state.md R23 to R27) and what stays set (R207) -/

section
namespace Sys2Proof.Machine

/-- P changes only by a command that loads or splices it, PV only from 0 to 1 by one that loads it (R23, R24). -/
theorem Effect.pixel_writers {op : Byte} {s t : State} (he : Effect op s t) :
    (t.p ≠ s.p → op ∈ [0x01#8, 0x03#8, 0x0C#8, 0x0D#8, 0x0E#8, 0x10#8]) ∧
    (t.pv ≠ s.pv → t.pv = true ∧ op ∈ [0x01#8, 0x03#8, 0x10#8]) := by
  cases he with
  | halted run =>
    obtain ⟨r, hr⟩ := s.haltedAnswer_frame op
    simp [hr]
  | fault c run => simp
  | answer d f run => simp
  | load v run who =>
    refine ⟨fun _ => ?_, fun _ => ⟨rfl, who⟩⟩
    simp only [List.mem_cons] at who ⊢
    tauto
  | splice v run valid who =>
    refine ⟨fun _ => ?_, fun h => absurd rfl h⟩
    simp only [List.mem_cons] at who ⊢
    tauto
  | start w h run who => simp
  | move xy d f run valid who keeps => simp

/-- W and H change only by IINIT, IV only from 0 to 1 by IINIT, X and Y only by IINIT, INEXT and ISKIP (R25 to R27). -/
theorem Effect.raster_writers {op : Byte} {s t : State} (he : Effect op s t) :
    (t.w ≠ s.w → op = 0x20#8) ∧ (t.h ≠ s.h → op = 0x20#8) ∧ (t.iv ≠ s.iv → t.iv = true ∧ op = 0x20#8) ∧
    (t.x ≠ s.x → op ∈ [0x20#8, 0x21#8, 0x23#8]) ∧ (t.y ≠ s.y → op ∈ [0x20#8, 0x21#8, 0x23#8]) := by
  cases he with
  | halted run =>
    obtain ⟨r, hr⟩ := s.haltedAnswer_frame op
    simp [hr]
  | fault c run => simp
  | answer d f run => simp
  | load v run who => simp
  | splice v run valid who => simp
  | start w h run who => simp [who]
  | move xy d f run valid who keeps =>
    have hmem : op ∈ [0x20#8, 0x21#8, 0x23#8] := List.mem_cons_of_mem _ who
    exact ⟨fun h => absurd rfl h, fun h => absurd rfl h, fun h => absurd rfl h, fun _ => hmem, fun _ => hmem⟩

/-- No command changes the fault state of a halted block (60_exceptions.md R205, R207). -/
theorem Effect.faultState_of_halted {op : Byte} {s t : State} (he : Effect op s t) (halted : s.flt = true) :
    t.flt = true ∧ t.fcode = s.fcode ∧ t.fop = s.fop := by
  cases he with
  | halted =>
    obtain ⟨r, hr⟩ := s.haltedAnswer_frame op
    simp [hr, halted]
  | fault c run | answer d f run | load v run who | splice v run valid who | start w h run who
  | move xy d f run valid who keeps => cases halted.symm.trans run

/-- PV, IV and the fault state of a halted block are kept from s to t. -/
def StickyKept (s t : State) : Prop :=
  (s.pv = true → t.pv = true) ∧ (s.iv = true → t.iv = true) ∧
  (s.flt = true → t.flt = true ∧ t.fcode = s.fcode ∧ t.fop = s.fop)

/-- No command clears PV or IV or changes the fault state of a halted block. -/
theorem Effect.stickyKept {op : Byte} {s t : State} (he : Effect op s t) : StickyKept s t := by
  obtain ⟨-, hpv⟩ := he.pixel_writers
  obtain ⟨-, -, hiv, -, -⟩ := he.raster_writers
  refine ⟨fun h => ?_, fun h => ?_, he.faultState_of_halted⟩
  · by_contra hn
    exact hn (hpv (by simp [h, hn])).1
  · by_contra hn
    exact hn (hiv (by simp [h, hn])).1

end Sys2Proof.Machine

open Sys2Proof.Machine

/-- Settles O29. -/
theorem onlyTheNamedCommandsWriteARegister : Obligations.OnlyTheNamedCommandsWriteARegister := by
  intro op d s t h
  have he := effect_of_perform h
  obtain ⟨hp, hpv⟩ := he.pixel_writers
  obtain ⟨hw, hh, hiv, hx, hy⟩ := he.raster_writers
  exact ⟨hp, hpv, hw, hh, hiv, hx, hy⟩

/-- Settles O43: by the kind of moment; a moment of reset contradicts the hypothesis. -/
theorem onlyResetClearsTheStickyState : Obligations.OnlyResetClearsTheStickyState := by
  intro s t hstep hnoReset
  change StickyKept s t
  cases stepEffect_of_step hstep with
  | idle | wait m later | deliver m later => exact ⟨id, id, fun h => ⟨h, rfl, rfl⟩⟩
  | reset m later drive rst => cases (hnoReset m later drive).symm.trans rst
  | accept m later t drive rst performed => exact performed.stickyKept

end

/-! ## STATUS, reset and the colour table (10_state.md R30, R36, R37) -/

section
namespace Sys2Proof.Machine

/-- STATUS as a number (R30). -/
theorem State.toNat_status (s : State) :
    s.status.toNat = s.fop.toNat * 256 + (s.fcode.toNat * 16 + ((flagBit s.flt).toNat * 8 +
      ((flagBit s.itDone).toNat * 4 + ((flagBit s.iv).toNat * 2 + (flagBit s.pv).toNat)))) := by
  refine (toNat_append_add 0#16 _).trans ?_
  simp only [toNat_append_add]
  norm_num

/-- A field of a word, read off the word as a number. -/
theorem extractLsb'_eq_of_toNat {w a n : Nat} {v : BitVec w} {field : BitVec n}
    (h : v.toNat / 2 ^ a % 2 ^ n = field.toNat) : v.extractLsb' a n = field :=
  BitVec.eq_of_toNat_eq (by rw [BitVec.extractLsb'_toNat, Nat.shiftRight_eq_div_pow, h])

/-- ITDONE as a bit (R30). -/
theorem flagBit_itDone (s : State) : flagBit s.itDone = if s.iv = true ∧ s.y = s.h then 1#1 else 0#1 := by
  unfold State.itDone
  by_cases h : s.y = s.h
  · cases s.iv <;> simp [flagBit, h]
  · simp [flagBit, h, beq_false_of_ne h]

theorem State.status_reset : State.reset.status = 0x00000000#32 := by decide

/-- The response a state holds is no part of what performing a command does: it is only replaced (R33, R35). -/
theorem exec_of_rsp (i : Instr) (s : State) (q : Option Response) : exec i { s with rsp := q } = exec i s := by
  cases i <;> rfl

end Sys2Proof.Machine

open Sys2Proof Sys2Proof.Machine

/-- Settles O28: each field is cut out of STATUS as a number. -/
theorem statusHasItsFields : Obligations.StatusHasItsFields := by
  intro s
  have hs := s.toNat_status
  have hfop := s.fop.isLt
  have hfcode := s.fcode.isLt
  have hflt := (flagBit s.flt).isLt
  have hdone := (flagBit s.itDone).isLt
  have hiv := (flagBit s.iv).isLt
  have hpv := (flagBit s.pv).isLt
  rw [← flagBit_itDone]
  change _ = flagBit s.pv ∧ _ = flagBit s.iv ∧ _ ∧ _ = flagBit s.flt ∧ _
  refine ⟨extractLsb'_eq_of_toNat ?pv, extractLsb'_eq_of_toNat ?iv, extractLsb'_eq_of_toNat ?itdone,
    extractLsb'_eq_of_toNat ?flt, extractLsb'_eq_of_toNat ?fcode, extractLsb'_eq_of_toNat ?fop,
    extractLsb'_eq_of_toNat ?upper⟩
  case upper => rw [BitVec.toNat_zero]; omega
  all_goals omega

/-- Settles O31. -/
theorem noCommandReadsAnEarlierResponse : Obligations.NoCommandReadsAnEarlierResponse := by
  intro op d s q
  cases hd : decode op d with
  | cmd i => rw [perform_of_cmd _ hd, perform_of_cmd _ hd, exec_of_rsp]
  | fault c => rw [perform_of_fault _ hd, perform_of_fault _ hd]; rfl

/-- Settles O33. -/
theorem theColourTableIsAnArgumentOfTheStep : Obligations.TheColourTableIsAnArgumentOfTheStep := by
  refine ⟨fun _ => rfl, fun i s => (execWith_colours i s).symm, ?_, ?_, ?_, ?_⟩
  · intro table s m later i hhost hrst hvalid hrsp hdecode
    rw [stepWith_of_drive table hhost, onDriveWith_of_accept table (s := { s with host := later }) hrst hvalid hrsp,
      performWith_of_cmd table _ hdecode]
  · intro table other k s hentry
    simp only [execWith, execPldcWith, hentry]
  · intro table other i s hne
    rw [execWith_of_ne_pldc table s hne, execWith_of_ne_pldc other s hne]
  · intro table other s m later hhost hrst
    rw [stepWith_of_drive table hhost, stepWith_of_drive other hhost, onDriveWith_of_reset table _ hrst,
      onDriveWith_of_reset other _ hrst]

/-- Settles O44: such a step leaves `State.resetBlock`. -/
theorem resetClearsAtAnyMoment : Obligations.ResetClearsAtAnyMoment := by
  intro s m later hhost hrst
  refine ⟨_, (step_of_drive hhost).trans (onDriveWith_of_reset _ _ hrst), ?_⟩
  exact ⟨rfl, rfl, rfl, rfl, rfl, rfl, rfl, State.status_reset, rfl⟩

/-- Settles O45. -/
theorem stateAfterReset : Obligations.StateAfterReset :=
  ⟨rfl, rfl, rfl, rfl, rfl, State.status_reset, rfl, rfl⟩

end

/-! ## Registers that nothing has written are never observable (10_state.md R37) -/

section
namespace Sys2Proof.Machine

/-! What the host sees of a state. -/

/-- ITDONE reads Y and H only while IV = 1 (R30). -/
theorem SameToHost.itDone {s s' : State} (h : SameToHost s s') : s.itDone = s'.itDone := by
  unfold State.itDone
  rw [← h.iv]
  cases hi : s.iv with
  | false => rfl
  | true =>
    obtain ⟨-, hh, -, hy⟩ := h.raster hi
    rw [hh, hy]

theorem SameToHost.status {s s' : State} (h : SameToHost s s') : s.status = s'.status := by
  simp only [State.status, h.pv, h.iv, h.itDone, h.flt, h.fcode, h.fop]

/-! Each shared operation keeps the relation. -/

theorem SameToHost.withHost {s s' : State} (h : SameToHost s s') (later : List HostDrive) :
    SameToHost { s with host := later } { s' with host := later } := { h with host := rfl }

theorem SameToHost.deliver {s s' : State} (h : SameToHost s s') : SameToHost s.deliver s'.deliver := { h with rsp := rfl }

theorem SameToHost.resetBlock {s s' : State} (h : SameToHost s s') : SameToHost s.resetBlock s'.resetBlock where
  pv := rfl
  pixel _ := rfl
  iv := rfl
  raster _ := ⟨rfl, rfl, rfl, rfl⟩
  flt := rfl
  fcode := rfl
  fop := rfl
  rsp := rfl
  host := h.host

/-- Equal answers keep the relation. -/
theorem SameToHost.respond {s s' : State} (h : SameToHost s s') {d d' : Word} {f f' : Bool} (hd : d = d') (hf : f = f') :
    SameToHost (s.respond d f) (s'.respond d' f') := { h with rsp := by simp [hd, hf] }

theorem SameToHost.respondZero {s s' : State} (h : SameToHost s s') : SameToHost s.respondZero s'.respondZero :=
  h.respond rfl rfl

theorem SameToHost.respondError {s s' : State} (h : SameToHost s s') : SameToHost s.respondError s'.respondError :=
  { h with rsp := rfl }

theorem SameToHost.raise {s s' : State} (h : SameToHost s s') (op : Byte) (c : FaultCode) :
    SameToHost (s.raise op c) (s'.raise op c) := { h with flt := rfl, fcode := rfl, fop := rfl, rsp := rfl }

/-- A loaded pixel is the same whatever P was. -/
theorem SameToHost.loadPixel {s s' : State} (h : SameToHost s s') (v : Half) :
    SameToHost (s.loadPixel v) (s'.loadPixel v) := { h with pv := rfl, pixel := fun _ => rfl }

theorem SameToHost.setPixel {s s' : State} (h : SameToHost s s') {v v' : Half} (hv : v = v') :
    SameToHost (s.setPixel v) (s'.setPixel v') := { h with pixel := fun _ => hv }

/-- A fresh sequence is the same whatever W, H, X and Y were. -/
theorem SameToHost.startRaster {s s' : State} (h : SameToHost s s') (a b : Half) :
    SameToHost (s.startRaster a b) (s'.startRaster a b) := { h with iv := rfl, raster := fun _ => ⟨rfl, rfl, rfl, rfl⟩ }

theorem SameToHost.moveTo {s s' : State} (h : SameToHost s s') (xy : Nat × Nat) :
    SameToHost (s.moveTo xy) (s'.moveTo xy) :=
  { h with raster := fun hi => ⟨(h.raster hi).1, (h.raster hi).2.1, rfl, rfl⟩ }

/-- Yielding reads W, so it needs IV = 1. -/
theorem SameToHost.yieldAt {s s' : State} (h : SameToHost s s') (hw : s.w = s'.w) (xy : Nat × Nat) :
    SameToHost (s.yieldAt xy) (s'.yieldAt xy) := by
  unfold State.yieldAt
  rw [hw]
  exact (h.moveTo _).respond rfl rfl

theorem SameToHost.haltedAnswer {s s' : State} (h : SameToHost s s') (op : Byte) :
    SameToHost (s.haltedAnswer op) (s'.haltedAnswer op) := by
  unfold State.haltedAnswer
  split
  · exact h.respond h.status rfl
  · exact h.respondError

/-! The order of checks: the two states take the same branch, and the values the branch reads are equal. -/

theorem SameToHost.whenRunning {s s' : State} (h : SameToHost s s') (op : Byte) {go : State → State}
    (run : SameToHost (go s) (go s')) : SameToHost (s.whenRunning op go) (s'.whenRunning op go) := by
  unfold State.whenRunning
  rw [← h.flt]
  split
  · exact h.haltedAnswer op
  · exact run

/-- A command goes on to read P only when the two states agree on it. -/
theorem SameToHost.whenPixel {s s' : State} (h : SameToHost s s') (op : Byte) {go : State → State}
    (run : s.p = s'.p → SameToHost (go s) (go s')) : SameToHost (s.whenPixel op go) (s'.whenPixel op go) := by
  refine h.whenRunning op ?_
  rw [← h.pv]
  split
  · exact run (h.pixel ‹_›)
  · exact h.raise op _

/-- A command goes on to read the iterator only when the two states agree on it. -/
theorem SameToHost.whenIter {s s' : State} (h : SameToHost s s') (op : Byte) {go : State → State}
    (run : s.w = s'.w → s.h = s'.h → s.x = s'.x → s.y = s'.y → SameToHost (go s) (go s')) :
    SameToHost (s.whenIter op go) (s'.whenIter op go) := by
  refine h.whenRunning op ?_
  rw [← h.iv]
  split
  · obtain ⟨hw, hh, hx, hy⟩ := h.raster ‹_›
    exact run hw hh hx hy
  · exact h.raise op _

/-! Commands, words and moments. -/

/-- Both go on, to states the host cannot tell apart. -/
def SameOutcome (o o' : Host.Outcome State Fault Refusal) : Prop :=
  ∃ t t', o = .next t ∧ o' = .next t' ∧ SameToHost t t'

theorem SameOutcome.next {t t' : State} (h : SameToHost t t') : SameOutcome (.next t) (.next t') := ⟨t, t', rfl, rfl, h⟩

/-- INEXT in two states that agree on the iterator. -/
theorem SameToHost.inext {s s' : State} (h : SameToHost s s') (hw : s.w = s'.w) (hh : s.h = s'.h) (hx : s.x = s'.x)
    (hy : s.y = s'.y) : SameToHost (if s.y < s.h then s.yieldAt (s.x.toNat, s.y.toNat) else s.respondZero)
      (if s'.y < s'.h then s'.yieldAt (s'.x.toNat, s'.y.toNat) else s'.respondZero) := by
  rw [hh, hx, hy]
  split
  · exact h.yieldAt hw _
  · exact h.respondZero

/-- ISKIP in two states that agree on the iterator. -/
theorem SameToHost.iskip {s s' : State} (h : SameToHost s s') (n : Word) (hw : s.w = s'.w) (hh : s.h = s'.h)
    (hdone : s.done = s'.done) (hrem : s.remaining = s'.remaining) :
    SameToHost
      (if s.remaining ≤ n.toNat then (s.moveTo (0, s.h.toNat)).respondZero
        else s.yieldAt (rasterCoord s.w.toNat (s.done + n.toNat)))
      (if s'.remaining ≤ n.toNat then (s'.moveTo (0, s'.h.toNat)).respondZero
        else s'.yieldAt (rasterCoord s'.w.toNat (s'.done + n.toNat))) := by
  rw [hh, hdone, hrem, ← hw]
  split
  · exact (h.moveTo _).respondZero
  · exact h.yieldAt hw _

/-- Every command does the same, as far as the host can see. -/
theorem SameToHost.exec {s s' : State} (h : SameToHost s s') (i : Instr) : SameOutcome (exec i s) (exec i s') := by
  cases i with
  | pld v => exact .next (h.whenRunning _ (h.loadPixel v).respondZero)
  | prd => exact .next (h.whenPixel _ fun hp => h.respond (by rw [hp]) rfl)
  | pldc k =>
    refine .next (h.whenRunning _ ?_)
    cases constColour Config.colours k with
    | none => exact h.raise _ _
    | some v => exact (h.loadPixel v).respondZero
  | peq v => exact .next (h.whenPixel _ fun hp => h.respond (by rw [hp]) (by rw [hp]))
  | getr => exact .next (h.whenPixel _ fun hp => h.respond (by rw [hp]) rfl)
  | getg => exact .next (h.whenPixel _ fun hp => h.respond (by rw [hp]) rfl)
  | getb => exact .next (h.whenPixel _ fun hp => h.respond (by rw [hp]) rfl)
  | setr u => exact .next (h.whenPixel _ fun hp => (h.setPixel (by rw [hp])).respondZero)
  | setg u => exact .next (h.whenPixel _ fun hp => (h.setPixel (by rw [hp])).respondZero)
  | setb u => exact .next (h.whenPixel _ fun hp => (h.setPixel (by rw [hp])).respondZero)
  | pack r g b => exact .next (h.whenRunning _ (h.loadPixel _).respondZero)
  | unpk => exact .next (h.whenPixel _ fun hp => h.respond (by rw [hp]) rfl)
  | iinit a b => exact .next (h.whenRunning _ (h.startRaster a b).respondZero)
  | inext => exact .next (h.whenIter _ h.inext)
  | irem =>
    refine .next (h.whenIter _ fun hw hh hx hy => h.respond ?_ rfl)
    rw [State.remaining, State.remaining, hw, hh, hx, hy]
  | iskip n =>
    refine .next (h.whenIter _ fun hw hh hx hy => h.iskip n hw hh ?_ ?_)
    · rw [State.done, State.done, hw, hx, hy]
    · rw [State.remaining, State.remaining, hw, hh, hx, hy]
  | stat => exact .next (h.whenRunning _ (h.respond h.status rfl))

/-- So does every word, a word that decodes to a fault included. -/
theorem SameToHost.perform {s s' : State} (h : SameToHost s s') (op : Byte) (d : Word) :
    SameOutcome (perform op d s) (perform op d s') := by
  cases hd : decode op d with
  | cmd i => rw [perform_of_cmd s hd, perform_of_cmd s' hd]; exact h.exec i
  | fault c =>
    rw [perform_of_fault s hd, perform_of_fault s' hd]
    exact .next (h.whenRunning op (h.raise op c))

/-- And every moment of the host's drive. -/
theorem SameToHost.onDrive {s s' : State} (h : SameToHost s s') (m : HostDrive) :
    SameOutcome (onDriveWith Config.colours m s) (onDriveWith Config.colours m s') := by
  unfold onDriveWith State.cmdReady
  rw [← h.rsp]
  split_ifs
  · exact .next h.resetBlock
  · exact h.perform m.cmdOp m.cmdD
  · exact .next h
  · exact .next h.deliver
  · exact .next h

theorem SameToHost.step {s s' : State} (h : SameToHost s s') : SameOutcome (step s) (step s') := by
  rcases hh : s.host with _ | ⟨m, later⟩
  · rw [step_of_idle hh, step_of_idle (h.host ▸ hh)]
    exact .next h
  · rw [step_of_drive hh, step_of_drive (h.host ▸ hh)]
    exact (h.withHost later).onDrive m

end Sys2Proof.Machine

open Sys2Proof.Machine

/-- Settles O52. -/
theorem unwrittenRegistersAreNeverObservable : Obligations.UnwrittenRegistersAreNeverObservable := by
  intro s s' t h hstep
  obtain ⟨u, t', hu, ht', hsame⟩ := h.step
  cases hu.symm.trans hstep
  exact ⟨t', ht', hsame⟩

end

/-! ## The commands that only return a value (20_memory.md R55) -/

section
namespace Sys2Proof.Machine

/-- A halted block answers every command by the halted answer (60_exceptions.md R205): each arm makes the halted check first. -/
theorem exec_of_halted (i : Instr) {s : State} (h : s.flt = true) : exec i s = .next (s.haltedAnswer (opcodeOf i)) := by
  cases i <;> exact congrArg Host.Outcome.next (State.whenRunning_of_halted _ _ h)

/-- STAT answers STATUS in every state, halted or not (42_control.md R180). -/
theorem exec_stat (s : State) : exec .stat s = .next (s.answering s.status false) :=
  congrArg Host.Outcome.next (State.whenRunning_ind (· = s.answering s.status false) s 0x30#8 _ (fun _ => rfl) fun _ => rfl)

/-- After a fault every OP but STAT's repeats the error response: the fault state is not recorded again (R205). -/
theorem State.haltedAnswer_faulted {op : Byte} (hop : op ≠ 0x30#8) (s : State) (code : BitVec 4) (op' : Byte) :
    (s.faulted code op').haltedAnswer op = s.faulted code op' := by
  rw [State.haltedAnswer_eq, if_neg hop]; rfl

/-- No read command has the OP of a command that writes P, PV or the iterator's registers. -/
theorem opcodeOf_of_read {i : Instr} (h : isReadCommand i = true) :
    opcodeOf i ∉ [0x01#8, 0x03#8, 0x10#8] ∧ opcodeOf i ∉ [0x0C#8, 0x0D#8, 0x0E#8] ∧ opcodeOf i ≠ 0x20#8 ∧
    opcodeOf i ∉ [0x21#8, 0x23#8] := by
  revert h
  cases i <;> simp [isReadCommand, opcodeOf]

/-- Only STAT has STAT's OP. -/
theorem eq_stat_of_opcodeOf {i : Instr} (h : opcodeOf i = 0x30#8) : i = .stat := by
  revert h
  cases i <;> simp [opcodeOf]

/-- A read command replaces the response and nothing else, or takes a fault. -/
theorem Effect.of_read {i : Instr} {s t : State} (h : isReadCommand i = true) (he : Effect (opcodeOf i) s t) :
    t = { s with rsp := t.rsp } ∨ ∃ c, t = s.faulted (faultNumber c) (opcodeOf i) := by
  obtain ⟨hload, hsplice, hstart, hmove⟩ := opcodeOf_of_read h
  cases he with
  | halted =>
    obtain ⟨r, hr⟩ := s.haltedAnswer_frame (opcodeOf i)
    exact .inl (by rw [hr])
  | fault c => exact .inr ⟨c, rfl⟩
  | answer d f => exact .inl rfl
  | load v run who => exact absurd who hload
  | splice v run valid who => exact absurd who hsplice
  | start w h run who => exact absurd who hstart
  | move xy d f run valid who => exact absurd who hmove

/-- A read command replaces the response and nothing else, or takes a fault and is not STAT. -/
theorem exec_read_cases {i : Instr} {s t : State} (h : isReadCommand i = true) (hexec : exec i s = .next t) :
    t = { s with rsp := t.rsp } ∨ opcodeOf i ≠ 0x30#8 ∧ ∃ c, t = s.faulted (faultNumber c) (opcodeOf i) := by
  by_cases hop : opcodeOf i = 0x30#8
  · cases eq_stat_of_opcodeOf hop
    cases (exec_stat s).symm.trans hexec
    exact .inl rfl
  · obtain ⟨u, hu, he⟩ := exec_effect i s
    cases hu.symm.trans hexec
    exact (he.of_read h).imp_right (⟨hop, ·⟩)

end Sys2Proof.Machine

open Sys2Proof Sys2Proof.Machine

/-- Settles O30: where only the response changed, the second issue is the first, which reads no response; where a fault was
taken, the block is halted and repeats the error response. -/
theorem readCommandsAreIdempotent : Obligations.ReadCommandsAreIdempotent := by
  intro i s t hread hexec
  rcases exec_read_cases hread hexec with hframe | ⟨hop, c, rfl⟩
  · refine ⟨?_, fun _ => hframe⟩
    calc exec i t = exec i { s with rsp := t.rsp } := congrArg (exec i) hframe
      _ = exec i s := exec_of_rsp i s t.rsp
      _ = .next t := hexec
  · refine ⟨?_, nofun⟩
    rw [exec_of_halted i rfl, State.haltedAnswer_faulted hop]

end

/-! ## The opcode map as a list of OPs and formats (30_encoding.md R83 to R89) -/

section
namespace Sys2Proof.Machine

/-- Each defined OP with its operand format: the decoder's map and the opcode table are both read off this list
(`exists_lookupOp_iff`, `opcodeRows_eq_map`). -/
def opFormats : List (Byte × Format) :=
  [(0x01#8, .h), (0x02#8, .n), (0x03#8, .k), (0x04#8, .h), (0x08#8, .n), (0x09#8, .n), (0x0A#8, .n), (0x0C#8, .b),
    (0x0D#8, .b), (0x0E#8, .b), (0x10#8, .t), (0x11#8, .n), (0x20#8, .wh), (0x21#8, .n), (0x22#8, .n), (0x23#8, .w32),
    (0x30#8, .n)]

/-- The table row of an OP and its format: the mask covers OP and the format's must-be-zero bits. -/
def formatRow (entry : Byte × Format) : OpcodeRow := ⟨0xFF#8 ++ mustBeZero entry.2, entry.1 ++ 0#32⟩

theorem opcodeRows_eq_map : opcodeRows = opFormats.map formatRow := by decide

/-- No OP stands twice in the list. -/
theorem opFormats_pairwise : opFormats.Pairwise fun a b => a.1 ≠ b.1 := by decide

/-- The OPs of the list are those R84 does not reserve. -/
theorem opFormats_any_op : ∀ op : Byte, (opFormats.any fun entry => op == entry.1) = !reservedOp op := by decide

/-- A row is selected by its OP with the must-be-zero bits of its format 0. -/
theorem formatRow_selects_iff (entry : Byte × Format) (cw : CmdWord) :
    (formatRow entry).selects cw = true ↔ cmdOp cw = entry.1 ∧ cmdD cw &&& mustBeZero entry.2 = 0#32 := by
  have hmask : cw &&& (0xFF#8 ++ mustBeZero entry.2) = cmdOp cw ++ (cmdD cw &&& mustBeZero entry.2) := by
    conv_lhs => rw [← cmdOp_append_cmdD cw]
    exact BitVec.and_append.trans (congrArg (· ++ _) BitVec.and_allOnes)
  rw [OpcodeRow.selects, beq_iff_eq]
  refine (Eq.congr_left hmask).trans ⟨fun h => ⟨?_, ?_⟩, fun ⟨hop, hd⟩ => by rw [hop, hd]; rfl⟩
  · simpa [formatRow] using congrArg cmdOp h
  · simpa [formatRow] using congrArg cmdD h

theorem wordWellFormed_iff (cw : CmdWord) :
    wordWellFormed cw = true ↔ ∃ f, (cmdOp cw, f) ∈ opFormats ∧ cmdD cw &&& mustBeZero f = 0#32 := by
  simp only [wordWellFormed, opcodeRows_eq_map, List.any_map, List.any_eq_true, Function.comp_apply, formatRow_selects_iff]
  constructor
  · rintro ⟨⟨_, f⟩, hmem, rfl, hd⟩
    exact ⟨f, hmem, hd⟩
  · rintro ⟨f, hmem, hd⟩
    exact ⟨_, hmem, rfl, hd⟩

theorem opDefined_eq (cw : CmdWord) : opDefined cw = opFormats.any fun entry => cmdOp cw == entry.1 := by
  have hop (entry : Byte × Format) : (formatRow entry).pattern.extractLsb' 32 8 = entry.1 := cmdOp_append entry.1 0#32
  simp only [opDefined, opcodeRows_eq_map, List.any_map, Function.comp_def, hop, cmdOp]

theorem opDefined_iff (cw : CmdWord) : opDefined cw = true ↔ ∃ f, (cmdOp cw, f) ∈ opFormats := by
  simp [opDefined_eq]

/-- The decoder knows an OP, by its format, exactly if it stands in the list (R83). -/
theorem exists_lookupOp_iff (op : Byte) (d : Word) (f : Format) :
    (∃ i, lookupOp op d = some (f, i)) ↔ (op, f) ∈ opFormats := by
  constructor
  · rintro ⟨i, h⟩
    unfold lookupOp at h
    split at h <;> cases h <;> decide
  · have hall : ∀ entry ∈ opFormats, ∃ i, lookupOp entry.1 d = some (entry.2, i) := by simp [opFormats, lookupOp]
    exact hall (op, f)

theorem lookupOp_eq_none_iff (op : Byte) (d : Word) : lookupOp op d = none ↔ ∀ f, (op, f) ∉ opFormats := by
  simp only [← exists_lookupOp_iff op d, Option.eq_none_iff_forall_ne_some, not_exists, Prod.forall]

/-- A word decodes to a command when its OP is known and the must-be-zero bits of its format are 0 (R89). -/
theorem decode_eq_cmd_iff {op : Byte} {d : Word} {i : Instr} :
    decode op d = .cmd i ↔ ∃ f, lookupOp op d = some (f, i) ∧ d &&& mustBeZero f = 0#32 := by
  unfold decode
  rcases lookupOp op d with _ | ⟨f, j⟩
  · simp
  · by_cases hd : d &&& mustBeZero f = 0#32 <;> simp [hd]

theorem exists_decode_eq_cmd_iff (op : Byte) (d : Word) :
    (∃ i, decode op d = .cmd i) ↔ ∃ f, (op, f) ∈ opFormats ∧ d &&& mustBeZero f = 0#32 := by
  simp only [decode_eq_cmd_iff, ← exists_lookupOp_iff op d, ← exists_and_right]
  exact exists_comm

end Sys2Proof.Machine

open Sys2Proof Sys2Proof.Machine

/-- Settles O36. -/
theorem decodeAgreesWithTheOpcodeTable : Obligations.DecodeAgreesWithTheOpcodeTable := by
  intro cw
  have hcmd : wordWellFormed cw = true ↔ ∃ i, decodeWord cw = .cmd i :=
    (wordWellFormed_iff cw).trans (exists_decode_eq_cmd_iff _ _).symm
  refine ⟨hcmd, fun hop => ?_, fun hop hwf => ?_, (opDefined_eq cw).trans (opFormats_any_op _)⟩
  · have hnone : lookupOp (cmdOp cw) (cmdD cw) = none :=
      (lookupOp_eq_none_iff _ _).2 fun f hf => by simp [(opDefined_iff cw).2 ⟨f, hf⟩] at hop
    simp [decodeWord, decode, hnone]
  · cases hd : decodeWord cw with
    | cmd i => simp [hcmd.2 ⟨i, hd⟩] at hwf
    | fault c =>
      rcases decode_fault_cases hd with ⟨-, hnone⟩ | ⟨rfl, -⟩
      · obtain ⟨f, hf⟩ := (opDefined_iff cw).1 hop
        exact absurd hf ((lookupOp_eq_none_iff _ _).1 hnone f)
      · rfl

/-- Settles O37: a row is selected by its own OP only, and no two rows have one OP. -/
theorem noWordSelectsTwoRows : Obligations.NoWordSelectsTwoRows := by
  unfold Obligations.NoWordSelectsTwoRows
  rw [opcodeRows_eq_map, List.pairwise_map]
  refine opFormats_pairwise.imp fun hne cw ⟨ha, hb⟩ => hne ?_
  exact ((formatRow_selects_iff _ cw).1 ha).1.symm.trans ((formatRow_selects_iff _ cw).1 hb).1

end

/-! ## A command and its word (30_encoding.md R72, R75 to R81, R92) -/

section
namespace Sys2Proof.Machine

open Sys2Proof.Laws.EncodedWord (upper_zero)

/-! Fields read back from an operand word they were placed in. -/

theorem imm16Of_append (v : Half) : imm16Of (0#16 ++ v) = v := BitVec.extractLsb'_append_eq_right

theorem imm8Of_append (v : Byte) : imm8Of (0#24 ++ v) = v := BitVec.extractLsb'_append_eq_right

theorem constIndexOf_append (k : BitVec 4) : constIndexOf (0#28 ++ k) = k := BitVec.extractLsb'_append_eq_right

theorem withChannels_append (r g b : Byte) (f : Byte → Byte → Byte → Instr) :
    withChannels (0#8 ++ (r ++ (g ++ b))) f = f r g b := by
  rw [withChannels, channelR_of_channels, channelG_of_channels, channelB_of_channels]

theorem withSize_append (w h : Half) (f : Half → Half → Instr) : withSize (h ++ w) f = f w h :=
  congrArg₂ f BitVec.extractLsb'_append_eq_right BitVec.extractLsb'_append_eq_left

/-- The decoder finds a command's own format and fields at its OP and operand word, whose must-be-zero bits are 0. -/
theorem lookupOp_operandOf (i : Instr) :
    ∃ f, lookupOp (opcodeOf i) (operandOf i) = some (f, i) ∧ operandOf i &&& mustBeZero f = 0#32 := by
  cases i with
  | pld v | peq v =>
    exact ⟨.h, by simp [lookupOp, opcodeOf, operandOf, imm16Of_append], (mustBeZero_h_iff _).2 (upper_zero v)⟩
  | setr u | setg u | setb u =>
    exact ⟨.b, by simp [lookupOp, opcodeOf, operandOf, imm8Of_append], (mustBeZero_b_iff _).2 (upper_zero u)⟩
  | pldc k =>
    exact ⟨.k, by simp [lookupOp, opcodeOf, operandOf, constIndexOf_append], (mustBeZero_k_iff _).2 (upper_zero k)⟩
  | pack r g b =>
    exact ⟨.t, congrArg (fun i => some (Format.t, i)) (withChannels_append r g b .pack),
      (mustBeZero_t_iff _).2 (upper_zero _)⟩
  | iinit w h => exact ⟨.wh, congrArg (fun i => some (Format.wh, i)) (withSize_append w h .iinit), (mustBeZero_wide _).1⟩
  | iskip n => exact ⟨.w32, rfl, (mustBeZero_wide _).2⟩
  | prd | getr | getg | getb | unpk | inext | irem | stat => exact ⟨.n, rfl, rfl⟩

theorem decodeWord_encode (i : Instr) : decodeWord (encode i) = .cmd i := by
  rw [decodeWord, encode, cmdOp_append, cmdD_append]
  exact decode_eq_cmd_iff.2 (lookupOp_operandOf i)

/-! An operand word is its fields and zeros. -/

theorem zero_append_low {m n : Nat} {d : BitVec (m + n)} (h : d.extractLsb' n m = 0#m) :
    0#m ++ d.extractLsb' 0 n = d := h ▸ BitVec.extractLsb'_append_extractLsb'

theorem zero_append_imm16Of {d : Word} (h : d &&& mustBeZero .h = 0#32) : 0#16 ++ imm16Of d = d :=
  zero_append_low ((mustBeZero_h_iff d).1 h)

theorem zero_append_imm8Of {d : Word} (h : d &&& mustBeZero .b = 0#32) : 0#24 ++ imm8Of d = d :=
  zero_append_low ((mustBeZero_b_iff d).1 h)

theorem zero_append_constIndexOf {d : Word} (h : d &&& mustBeZero .k = 0#32) : 0#28 ++ constIndexOf d = d :=
  zero_append_low ((mustBeZero_k_iff d).1 h)

theorem operandOf_withChannels {d : Word} (h : d &&& mustBeZero .t = 0#32) : operandOf (withChannels d .pack) = d := by
  have hlow : d.extractLsb' 16 8 ++ (d.extractLsb' 8 8 ++ d.extractLsb' 0 8) = d.extractLsb' 0 24 := by
    have hgb : d.extractLsb' 8 8 ++ d.extractLsb' 0 8 = d.extractLsb' 0 16 :=
      BitVec.extractLsb'_append_extractLsb'_eq_extractLsb' rfl
    rw [hgb]
    exact BitVec.extractLsb'_append_extractLsb'_eq_extractLsb' rfl
  exact (congrArg (0#8 ++ ·) hlow).trans (zero_append_low ((mustBeZero_t_iff d).1 h))

theorem operandOf_withSize (d : Word) : operandOf (withSize d .iinit) = d :=
  BitVec.extractLsb'_append_extractLsb' (w := 16) (len := 16)

/-- The command the decoder reads off a word has that word's D as its operand word (R86). The cases are the lines of the
opcode map, grouped by format; format N stands last. -/
theorem operandOf_of_lookupOp {op : Byte} {d : Word} {f : Format} {i : Instr} (h : lookupOp op d = some (f, i))
    (hd : d &&& mustBeZero f = 0#32) : operandOf i = d := by
  unfold lookupOp at h
  split at h <;> cases h
  case h_1 | h_4 => exact zero_append_imm16Of hd
  case h_3 => exact zero_append_constIndexOf hd
  case h_8 | h_9 | h_10 => exact zero_append_imm8Of hd
  case h_11 => exact operandOf_withChannels hd
  case h_13 => exact operandOf_withSize d
  case h_16 => rfl
  all_goals exact ((mustBeZero_n_iff d).1 hd).symm

end Sys2Proof.Machine

open Sys2Proof Sys2Proof.Machine

/-- Settles O34. -/
theorem decodeOfEncodeIsTheCommand : Obligations.DecodeOfEncodeIsTheCommand := decodeWord_encode

/-- Settles O35: the command keeps the word's OP and, the must-be-zero bits being 0, its D. -/
theorem encodeOfDecodeIsTheWord : Obligations.EncodeOfDecodeIsTheWord := by
  intro cw i h
  obtain ⟨f, hlookup, hd⟩ := decode_eq_cmd_iff.1 h
  calc encode i = cmdOp cw ++ cmdD cw := congrArg₂ (· ++ ·) (opcodeOf_of_decode h) (operandOf_of_lookupOp hlookup hd)
    _ = cw := cmdOp_append_cmdD cw

/-- Settles O38: the five words that decode are encodings; the other two are decoded as they stand. -/
theorem specWordsDecode : Obligations.SpecWordsDecode :=
  ⟨decodeWord_encode (.setg 0x80#8), decodeWord_encode (.iinit 3#16 2#16), decodeWord_encode (.pack 0x12#8 0x34#8 0x56#8),
    decodeWord_encode (.iskip 0xFFFFFFFF#32), decodeWord_encode (.pldc 9#4), by decide, by decide⟩

end

/-! ## The assembler's lines (30_encoding.md R90 to R92) -/

section
namespace Sys2Proof.Machine

theorem fitField_map {α : Type} (width n : Nat) (g : BitVec width → α) :
    (fitField width n).map g = if n < 2 ^ width then some (g (BitVec.ofNat width n)) else none := by
  unfold fitField
  split <;> rfl

theorem fitField_bind {α : Type} (width n : Nat) (g : BitVec width → Option α) :
    (fitField width n).bind g = if n < 2 ^ width then g (BitVec.ofNat width n) else none := by
  unfold fitField
  split <;> rfl

/-- The value of a bit vector fits a field of its width. -/
theorem fitField_toNat {width : Nat} (v : BitVec width) : fitField width v.toNat = some v := by
  rw [fitField, if_pos v.isLt, BitVec.ofNat_toNat, BitVec.setWidth_eq]

/-- Every line but `.word` is the word of the command it names. -/
theorem assemble_of_ne_word {l : AsmLine} (h : l.mnemonic ≠ .word) : assemble l = (asmCommand l).map encode := by
  have hraw : asmRawWord l = none := by
    unfold asmRawWord
    split
    · contradiction
    · rfl
  unfold assemble
  cases asmCommand l with
  | none => exact hraw
  | some i => rfl

/-- A command word as a number: OP above the operand word (R72). -/
theorem encode_eq_ofNat {i : Instr} {n : Nat} (h : (opcodeOf i).toNat * 2 ^ 32 + (operandOf i).toNat = n) :
    encode i = BitVec.ofNat 40 n :=
  BitVec.eq_of_toNat_eq (by
    have := (encode i).isLt
    rw [encode, toNat_append_add, h] at this
    rw [encode, toNat_append_add, h, BitVec.toNat_ofNat, Nat.mod_eq_of_lt this])

/-- A field alone in its operand word is the word's value. -/
theorem toNat_zero_append {m n : Nat} (v : BitVec n) : (0#m ++ v).toNat = v.toNat := by simp

/-- A line of one operand: the OP of its command, and below it the operand where it fits. -/
theorem assemble_single {width max base n : Nat} {f : BitVec width → Instr} {l : AsmLine} (hl : l.mnemonic ≠ .word)
    (hcmd : asmCommand l = (fitField width n).map f) (hmax : max + 1 = 2 ^ width)
    (hop : ∀ v, (opcodeOf (f v)).toNat * 2 ^ 32 = base) (hd : ∀ v, (operandOf (f v)).toNat = v.toNat) :
    assemble l = if n ≤ max then some (BitVec.ofNat 40 (base + n)) else none := by
  rw [assemble_of_ne_word hl, hcmd, Option.map_map, fitField_map, ← hmax]
  simp only [Nat.lt_succ_iff]
  split
  · rename_i h
    refine congrArg some (encode_eq_ofNat ?_)
    rw [hop, hd, BitVec.toNat_ofNat, Nat.mod_eq_of_lt (by omega)]
  · rfl

/-- IINIT's line places the height above the width (R80). -/
theorem assemble_iinit (w h : Nat) : assemble ⟨.iinit, [.num w, .num h]⟩ =
    if w ≤ 0xFFFF ∧ h ≤ 0xFFFF then some (BitVec.ofNat 40 (0x2000000000 + h * 65536 + w)) else none := by
  have hasm : assemble ⟨.iinit, [.num w, .num h]⟩ =
      if w < 2 ^ 16 then if h < 2 ^ 16 then some (encode (.iinit (BitVec.ofNat 16 w) (BitVec.ofNat 16 h))) else none
      else none := by
    rw [assemble_of_ne_word (by simp)]
    simp only [asmCommand, fitField_map, fitField_bind, apply_ite (Option.map encode), Option.map_some, Option.map_none]
  rw [hasm, ← ite_and]
  refine ite_congr (by simp [Nat.lt_succ_iff]) (fun h => congrArg some (encode_eq_ofNat ?_)) fun _ => rfl
  simp only [opcodeOf, operandOf, toNat_append_add, BitVec.toNat_ofNat]
  omega

/-- PACK's line places red above green above blue (R79). -/
theorem assemble_pack (r g b : Nat) : assemble ⟨.pack, [.num r, .num g, .num b]⟩ =
    if r ≤ 0xFF ∧ g ≤ 0xFF ∧ b ≤ 0xFF then some (BitVec.ofNat 40 (0x1000000000 + r * 65536 + g * 256 + b))
    else none := by
  have hasm : assemble ⟨.pack, [.num r, .num g, .num b]⟩ =
      if r < 2 ^ 8 then if g < 2 ^ 8 then if b < 2 ^ 8 then
        some (encode (.pack (BitVec.ofNat 8 r) (BitVec.ofNat 8 g) (BitVec.ofNat 8 b))) else none else none else none := by
    rw [assemble_of_ne_word (by simp)]
    simp only [asmCommand, fitField_map, fitField_bind, apply_ite (Option.map encode), Option.map_some, Option.map_none]
  rw [hasm, ← ite_and, ← ite_and]
  refine ite_congr (by simp [Nat.lt_succ_iff, and_assoc]) (fun h => congrArg some (encode_eq_ofNat ?_)) fun _ => rfl
  rw [operandOf, toNat_channels]
  simp only [opcodeOf, BitVec.toNat_ofNat]
  omega

end Sys2Proof.Machine

open Sys2Proof Sys2Proof.Machine

/-- Settles O40. -/
theorem assemblerPlacesOperandsOrRejects : Obligations.AssemblerPlacesOperandsOrRejects :=
  ⟨fun _ => assemble_single (by simp) rfl (by norm_num) (by simp [opcodeOf]) toNat_zero_append,
    fun _ => assemble_single (by simp) rfl (by norm_num) (by simp [opcodeOf]) toNat_zero_append,
    fun _ => assemble_single (by simp) rfl (by norm_num) (by simp [opcodeOf]) toNat_zero_append,
    fun _ => assemble_single (by simp) rfl (by norm_num) (by simp [opcodeOf]) toNat_zero_append,
    assemble_pack, assemble_iinit,
    fun _ => assemble_single (by simp) rfl (by norm_num) (by simp [opcodeOf]) (by simp [operandOf])⟩

/-- Settles O39: `.word` names no command, so its word is the raw one. -/
theorem pseudoInstructionsExpand : Obligations.PseudoInstructionsExpand := by
  refine ⟨rfl, fun n => ?_, fun op d => ?_⟩
  · rw [assemble_of_ne_word (by simp), assemble_of_ne_word (by simp)]; rfl
  · simp only [assemble, asmCommand, asmRawWord, fitField_toNat, Option.bind_some, Option.map_some]

end

/-! ## The moments of the handshake (30_encoding.md R71) -/

section
namespace Sys2Proof.Machine

/-- Performing a word presents a response and leaves the host's drives alone. -/
theorem Effect.responds {op : Byte} {s t : State} (he : Effect op s t) : t.rspValid = true ∧ t.host = s.host := by
  cases he with
  | halted =>
    obtain ⟨r, hr⟩ := s.haltedAnswer_frame op
    rw [hr]
    exact ⟨rfl, rfl⟩
  | _ => exact ⟨rfl, rfl⟩

/-- `cmd_ready` is 1 exactly while no response is outstanding. -/
theorem State.cmdReady_iff (s : State) : s.cmdReady = true ↔ s.rsp = none := Option.isNone_iff_eq_none

theorem State.cmdReady_eq_not_rspValid (s : State) : s.cmdReady = !s.rspValid := by
  cases h : s.rsp <;> simp [State.cmdReady, State.rspValid, h]

/-- A ready block and no word: nothing happens. -/
theorem onDriveWith_of_no_word (table : ColourTable) {m : HostDrive} {s : State} (hrst : m.rst = false)
    (hready : s.cmdReady = true) (hvalid : m.cmdValid = false) : onDriveWith table m s = .next s := by
  simp [onDriveWith, hrst, hready, hvalid]

/-- An outstanding response and a ready host: the delivery, whatever word is driven. -/
theorem onDriveWith_of_delivery (table : ColourTable) {m : HostDrive} {s : State} (hrst : m.rst = false)
    (hbusy : s.cmdReady = false) (hready : m.rspReady = true) : onDriveWith table m s = .next s.deliver := by
  simp [onDriveWith, hrst, hbusy, hready]

/-- An outstanding response and a host that is not ready: the response is kept, whatever word is driven. -/
theorem onDriveWith_of_waiting (table : ColourTable) {m : HostDrive} {s : State} (hrst : m.rst = false)
    (hbusy : s.cmdReady = false) (hready : m.rspReady = false) : onDriveWith table m s = .next s := by
  simp [onDriveWith, hrst, hbusy, hready]

end Sys2Proof.Machine

open Sys2Proof Sys2Proof.Machine

/-- Settles O48. -/
theorem stepRunsTheDecodedCommand : Obligations.StepRunsTheDecodedCommand := by
  intro s m later i hhost hrst hvalid hrsp hdecode
  rw [step_of_drive hhost, onDriveWith_of_accept _ (s := { s with host := later }) hrst hvalid hrsp]
  exact perform_of_cmd _ hdecode

/-- Settles O49: one lemma per moment; the last clause holds of every effect of a word. -/
theorem handshakeMovesOneCommandAtATime : Obligations.HandshakeMovesOneCommandAtATime := by
  refine ⟨fun s m later hhost hrst => ?_, fun _ => step_of_idle, State.cmdReady_eq_not_rspValid, fun op d s => ?_⟩
  · rw [step_of_drive hhost]
    refine ⟨fun hready hvalid => ?_, fun hready hvalid => ?_, fun hbusy hready => ?_, fun hbusy hready => ?_⟩
    · exact onDriveWith_of_accept _ hrst hvalid (s.cmdReady_iff.1 hready)
    · exact onDriveWith_of_no_word _ hrst hready hvalid
    · exact onDriveWith_of_delivery _ hrst hbusy hready
    · exact onDriveWith_of_waiting _ hrst hbusy hready
  · obtain ⟨t, ht, he⟩ := perform_effect op d s
    exact ⟨t, ht, he.responds⟩

end

/-! ## Fields, splices and expansions of a pixel as numbers (40_pixel_channels.md R100 to R103) -/

section
namespace Sys2Proof.Machine

theorem toNat_fR (p : Half) : (fR p).toNat = p.toNat / 2048 := by
  have hp := p.isLt
  rw [fR, BitVec.extractLsb'_toNat, Nat.shiftRight_eq_div_pow]
  omega

theorem toNat_fG (p : Half) : (fG p).toNat = p.toNat / 32 % 64 := by
  rw [fG, BitVec.extractLsb'_toNat, Nat.shiftRight_eq_div_pow]

theorem toNat_fB (p : Half) : (fB p).toNat = p.toNat % 32 := by
  rw [fB, BitVec.extractLsb'_toNat, Nat.shiftRight_zero]

theorem toNat_withR (p : Half) (f5 : BitVec 5) : (withR p f5).toNat = f5.toNat * 2048 + p.toNat % 2048 := by
  refine (toNat_append_add f5 (p.extractLsb' 0 11)).trans ?_
  rw [BitVec.extractLsb'_toNat, Nat.shiftRight_zero]
  norm_num

theorem toNat_withG (p : Half) (f6 : BitVec 6) :
    (withG p f6).toNat = p.toNat / 2048 * 2048 + f6.toNat * 32 + p.toNat % 32 := by
  refine (toNat_append_add (fR p) (f6 ++ fB p)).trans ?_
  rw [toNat_append_add, toNat_fR, toNat_fB]
  omega

theorem toNat_withB (p : Half) (f5 : BitVec 5) : (withB p f5).toNat = p.toNat / 32 * 32 + f5.toNat := by
  have hp := p.isLt
  refine (toNat_append_add (p.extractLsb' 5 11) f5).trans ?_
  rw [BitVec.extractLsb'_toNat, Nat.shiftRight_eq_div_pow]
  omega

theorem toNat_trunc5 (u : Byte) : (trunc5 u).toNat = u.toNat / 8 := by
  have hu := u.isLt
  rw [trunc5, BitVec.extractLsb'_toNat, Nat.shiftRight_eq_div_pow]
  omega

theorem toNat_trunc6 (u : Byte) : (trunc6 u).toNat = u.toNat / 4 := by
  have hu := u.isLt
  rw [trunc6, BitVec.extractLsb'_toNat, Nat.shiftRight_eq_div_pow]
  omega

theorem toNat_exp5 (v : BitVec 5) : (exp5 v).toNat = v.toNat * 8 + v.toNat / 4 := by
  have hv := v.isLt
  refine (toNat_append_add v (v.extractLsb' 2 3)).trans ?_
  rw [BitVec.extractLsb'_toNat, Nat.shiftRight_eq_div_pow]
  omega

theorem toNat_exp6 (v : BitVec 6) : (exp6 v).toNat = v.toNat * 4 + v.toNat / 16 := by
  have hv := v.isLt
  refine (toNat_append_add v (v.extractLsb' 4 2)).trans ?_
  rw [BitVec.extractLsb'_toNat, Nat.shiftRight_eq_div_pow]
  omega

/-! Truncation undoes expansion, and expansion is strictly increasing (R103). -/

theorem trunc5_exp5 (v : BitVec 5) : trunc5 (exp5 v) = v := BitVec.extractLsb'_append_eq_left

theorem trunc6_exp6 (v : BitVec 6) : trunc6 (exp6 v) = v := BitVec.extractLsb'_append_eq_left

theorem exp5_lt_exp5 {v v' : BitVec 5} (h : v < v') : exp5 v < exp5 v' := by
  rw [BitVec.lt_def] at h ⊢
  rw [toNat_exp5, toNat_exp5]
  omega

theorem exp6_lt_exp6 {v v' : BitVec 6} (h : v < v') : exp6 v < exp6 v' := by
  rw [BitVec.lt_def] at h ⊢
  rw [toNat_exp6, toNat_exp6]
  omega

/-! Expansion of a truncated byte or of a field reads the bits it replicates from the whole. -/

theorem exp5_extractLsb' {n : Nat} (v : BitVec n) (a : Nat) :
    exp5 (v.extractLsb' a 5) = v.extractLsb' a 5 ++ v.extractLsb' (a + 2) 3 :=
  congrArg (v.extractLsb' a 5 ++ ·) (extractLsb'_of_extractLsb' v (by decide))

theorem exp6_extractLsb' {n : Nat} (v : BitVec n) (a : Nat) :
    exp6 (v.extractLsb' a 6) = v.extractLsb' a 6 ++ v.extractLsb' (a + 4) 2 :=
  congrArg (v.extractLsb' a 6 ++ ·) (extractLsb'_of_extractLsb' v (by decide))

/-- A byte survives a 5-bit round trip exactly when its dropped low bits equal its top bits (R103). -/
theorem exp5_trunc5_eq_iff (u : Byte) : exp5 (trunc5 u) = u ↔ u.extractLsb' 0 3 = u.extractLsb' 5 3 := by
  have hu := u.isLt
  rw [← BitVec.toNat_inj, ← BitVec.toNat_inj, toNat_exp5, toNat_trunc5, Nat.div_div_eq_div_mul,
    BitVec.extractLsb'_toNat, BitVec.extractLsb'_toNat, Nat.shiftRight_eq_div_pow, Nat.shiftRight_eq_div_pow]
  omega

/-- A byte survives a 6-bit round trip exactly when its dropped low bits equal its top bits (R103). -/
theorem exp6_trunc6_eq_iff (u : Byte) : exp6 (trunc6 u) = u ↔ u.extractLsb' 0 2 = u.extractLsb' 6 2 := by
  have hu := u.isLt
  rw [← BitVec.toNat_inj, ← BitVec.toNat_inj, toNat_exp6, toNat_trunc6, Nat.div_div_eq_div_mul,
    BitVec.extractLsb'_toNat, BitVec.extractLsb'_toNat, Nat.shiftRight_eq_div_pow, Nat.shiftRight_eq_div_pow]
  omega

/-! Pixels put together from channels (R120, R122, R124). -/

/-- Three splices leave nothing of the prior pixel. -/
theorem withB_withG_withR (p : Half) (r g b : Byte) :
    withB (withG (withR p (trunc5 r)) (trunc6 g)) (trunc5 b) = packPixel r g b := by
  apply BitVec.eq_of_toNat_eq
  have hr := (trunc5 r).isLt
  have hg := (trunc6 g).isLt
  rw [toNat_withB, toNat_withG, toNat_withR, toNat_packPixel]
  omega

/-- Packing the expanded fields of a pixel gives the pixel back. -/
theorem packPixel_exp (p : Half) : packPixel (exp5 (fR p)) (exp6 (fG p)) (exp5 (fB p)) = p := by
  rw [packPixel, trunc5_exp5, trunc6_exp6, trunc5_exp5]
  exact fields_append p

end Sys2Proof.Machine

open Sys2Proof Sys2Proof.Machine

/-- Settles O1. -/
theorem fieldsAndSplicesPartitionThePixel : Obligations.FieldsAndSplicesPartitionThePixel := fun p f5 f6 =>
  ⟨toNat_fR p, toNat_fG p, toNat_fB p, toNat_withR p f5, toNat_withG p f6, toNat_withB p f5⟩

/-- Settles O2: the shift forms of R101 are compared with the concatenations over all 32 and all 64 field values. -/
theorem expansionAndTruncationLaws : Obligations.ExpansionAndTruncationLaws :=
  ⟨fun v => ⟨by revert v; decide, rfl⟩, fun v => ⟨by revert v; decide, rfl⟩,
    fun u => ⟨toNat_trunc5 u, toNat_trunc6 u⟩, by decide, trunc5_exp5, trunc6_exp6,
    fun _ _ => exp5_lt_exp5, fun _ _ => exp6_lt_exp6,
    fun u => ⟨exp5_extractLsb' u 3, exp6_extractLsb' u 2, exp5_trunc5_eq_iff u, exp6_trunc6_eq_iff u⟩⟩

end

/-! ## What each pixel command does in a running block (40_pixel_channels.md R110 to R121) -/

section
namespace Sys2Proof.Machine

variable {s : State}

theorem setWidth_eq_zero_append {m n : Nat} (v : BitVec n) : v.setWidth (m + n) = 0#m ++ v :=
  BitVec.eq_of_toNat_eq ((BitVec.toNat_setWidth_of_le (Nat.le_add_left n m)).trans (toNat_zero_append v).symm)

/-! The commands that do not read P. -/

theorem exec_pld (v : Half) (hf : s.flt = false) : exec (.pld v) s = .next (s.loadPixel v).respondZero :=
  congrArg Host.Outcome.next (State.whenRunning_of_running _ _ hf)

theorem exec_pack (r g b : Byte) (hf : s.flt = false) :
    exec (.pack r g b) s = .next (s.loadPixel (packPixel r g b)).respondZero :=
  congrArg Host.Outcome.next (State.whenRunning_of_running _ _ hf)

theorem execPldcWith_of_entry {table : ColourTable} {k : BitVec 4} {v : Half} (hf : s.flt = false)
    (hk : constColour table k = some v) : execPldcWith table k s = .next (s.loadPixel v).respondZero := by
  rw [execPldcWith, State.whenRunning_of_running _ _ hf, hk]

theorem execPldcWith_of_no_entry {table : ColourTable} {k : BitVec 4} (hf : s.flt = false)
    (hk : constColour table k = none) : execPldcWith table k s = .next (s.faulted 3#4 0x03#8) := by
  rw [execPldcWith, State.whenRunning_of_running _ _ hf, hk]
  rfl

/-- The table ends at WHITE, index 8 (R104). -/
theorem constColour_eq_none (table : ColourTable) {k : BitVec 4} (h : 8#4 < k) : constColour table k = none := by
  unfold constColour
  split
  case h_10 => rfl
  all_goals exact absurd h (by decide)

/-! The commands that read P, in a state with PV = 1. -/

section
variable (hf : s.flt = false) (hp : s.pv = true)
include hf hp

theorem exec_prd : exec .prd s = .next (s.answering (0#16 ++ s.p) false) := by
  rw [← setWidth_eq_zero_append]
  exact congrArg Host.Outcome.next (State.whenPixel_of_valid _ _ hf hp)

theorem exec_peq (v : Half) :
    exec (.peq v) s = .next (s.answering (if s.p = v then 1#32 else 0#32) (decide (s.p = v))) := by
  have hdata : (flagBit (pixelEq s.p v)).setWidth 32 = if s.p = v then 1#32 else 0#32 := by
    rw [pixelEq, beq_eq_decide]
    split <;> simp [flagBit, *]
  rw [← hdata]
  exact congrArg Host.Outcome.next (State.whenPixel_of_valid _ _ hf hp)

theorem exec_getr : exec .getr s = .next (s.answering (0#24 ++ exp5 (fR s.p)) false) := by
  rw [← setWidth_eq_zero_append]
  exact congrArg Host.Outcome.next (State.whenPixel_of_valid _ _ hf hp)

theorem exec_getg : exec .getg s = .next (s.answering (0#24 ++ exp6 (fG s.p)) false) := by
  rw [← setWidth_eq_zero_append]
  exact congrArg Host.Outcome.next (State.whenPixel_of_valid _ _ hf hp)

theorem exec_getb : exec .getb s = .next (s.answering (0#24 ++ exp5 (fB s.p)) false) := by
  rw [← setWidth_eq_zero_append]
  exact congrArg Host.Outcome.next (State.whenPixel_of_valid _ _ hf hp)

theorem exec_setr (u : Byte) : exec (.setr u) s = .next (s.setPixel (withR s.p (trunc5 u))).respondZero :=
  congrArg Host.Outcome.next (State.whenPixel_of_valid _ _ hf hp)

theorem exec_setg (u : Byte) : exec (.setg u) s = .next (s.setPixel (withG s.p (trunc6 u))).respondZero :=
  congrArg Host.Outcome.next (State.whenPixel_of_valid _ _ hf hp)

theorem exec_setb (u : Byte) : exec (.setb u) s = .next (s.setPixel (withB s.p (trunc5 u))).respondZero :=
  congrArg Host.Outcome.next (State.whenPixel_of_valid _ _ hf hp)

theorem exec_unpk :
    exec .unpk s = .next (s.answering (0#8 ++ (exp5 (fR s.p) ++ (exp6 (fG s.p) ++ exp5 (fB s.p)))) false) :=
  congrArg Host.Outcome.next (State.whenPixel_of_valid _ _ hf hp)

end

/-! The faults. -/

/-- Every command that reads P faults while PV = 0 (10_state.md R24). -/
theorem exec_of_unset {i : Instr} (hreads : opcodeOf i ∈ pixelReaders) (hf : s.flt = false) (hp : s.pv = false) :
    exec i s = .next (s.faulted 4#4 (opcodeOf i)) := by
  cases i with
  | prd | peq v | getr | getg | getb | setr u | setg u | setb u | unpk =>
    exact congrArg Host.Outcome.next (State.whenPixel_of_unset _ _ hf hp)
  | _ => simp [opcodeOf, pixelReaders] at hreads

/-- What one line of the opcode map says of the words with its OP: those with the must-be-zero bits 0 are its command, the
others fault RESERVED_OPERAND. `zero` spells the must-be-zero check as the format's field of D. -/
theorem decode_and_reserved_of_lookupOp {op : Byte} {f : Format} {g : Word → Instr} {zero : Word → Prop}
    (hmap : ∀ d, lookupOp op d = some (f, g d)) (hzero : ∀ d, d &&& mustBeZero f = 0#32 ↔ zero d) :
    (∀ d, zero d → decode op d = .cmd (g d)) ∧
    ∀ (s : State) (d : Word), s.flt = false → ¬zero d → perform op d s = .next (s.faulted 2#4 op) := by
  refine ⟨fun d hd => decode_eq_cmd_iff.2 ⟨f, hmap d, (hzero d).2 hd⟩, fun s d hf hd => ?_⟩
  have hfault : decode op d = .fault .reservedOperand := by
    simp [decode, hmap, (hzero d).not.2 hd]
  rw [perform_of_fault s hfault, State.refuseWord_of_running _ _ hf]
  rfl

/-- The faults and the decoding of a command that reads P and has an operand `a`, read off D by `field`. -/
theorem pixelReader_faults {α : Type} {op : Byte} {f : Format} {i : α → Instr} {field : Word → α} {zero : Word → Prop}
    (hop : ∀ a, opcodeOf (i a) = op) (hreads : op ∈ pixelReaders)
    (hmap : ∀ d, lookupOp op d = some (f, i (field d))) (hzero : ∀ d, d &&& mustBeZero f = 0#32 ↔ zero d) :
    (∀ (s : State) (a : α), s.flt = false → s.pv = false → exec (i a) s = .next (s.faulted 4#4 op)) ∧
    (∀ d, zero d → decode op d = .cmd (i (field d))) ∧
    ∀ (s : State) (d : Word), s.flt = false → ¬zero d → perform op d s = .next (s.faulted 2#4 op) := by
  refine ⟨fun s a hf hp => ?_, decode_and_reserved_of_lookupOp hmap hzero⟩
  rw [← hop a]
  exact exec_of_unset (hop a ▸ hreads) hf hp

/-- The same of a command that reads P and has no operand, format N. -/
theorem bareReader_faults {i : Instr} (hreads : opcodeOf i ∈ pixelReaders)
    (hmap : ∀ d, lookupOp (opcodeOf i) d = some (.n, i)) :
    (∀ s : State, s.flt = false → s.pv = false → exec i s = .next (s.faulted 4#4 (opcodeOf i))) ∧
    decode (opcodeOf i) 0#32 = .cmd i ∧
    ∀ (s : State) (d : Word), s.flt = false → d ≠ 0#32 →
      perform (opcodeOf i) d s = .next (s.faulted 2#4 (opcodeOf i)) := by
  obtain ⟨hdecode, hreserved⟩ := decode_and_reserved_of_lookupOp hmap mustBeZero_n_iff
  exact ⟨fun s => exec_of_unset hreads, hdecode _ rfl, hreserved⟩

end Sys2Proof.Machine

open Sys2Proof Sys2Proof.Machine

/-- Settles O3. -/
theorem pldLoadsTheRawPixel : Obligations.PldLoadsTheRawPixel :=
  ⟨fun _ => exec_pld, decode_and_reserved_of_lookupOp (fun _ => rfl) mustBeZero_h_iff⟩

/-- Settles O4. -/
theorem prdReadsTheRawPixel : Obligations.PrdReadsTheRawPixel :=
  ⟨fun _ => exec_prd, bareReader_faults (i := .prd) (by decide) fun _ => rfl⟩

/-- Settles O5: `exec`'s PLDC is the one with a table, at `Config.colours`. -/
theorem pldcLoadsTheConstantOrFaults : Obligations.PldcLoadsTheConstantOrFaults :=
  ⟨fun _ _ _ => execPldcWith_of_entry, fun _ _ _ _ => execPldcWith_of_entry,
    fun _ => ⟨rfl, rfl, rfl, rfl, rfl, rfl, rfl, rfl, rfl⟩,
    fun table _ _ hf hk => ⟨execPldcWith_of_no_entry hf (constColour_eq_none Config.colours hk),
      execPldcWith_of_no_entry hf (constColour_eq_none table hk)⟩,
    decode_and_reserved_of_lookupOp (fun _ => rfl) mustBeZero_k_iff⟩

/-- Settles O6. -/
theorem peqComparesAllSixteenBits : Obligations.PeqComparesAllSixteenBits :=
  ⟨fun _ v hf hp => exec_peq hf hp v,
    pixelReader_faults (i := .peq) (fun _ => rfl) (by decide) (fun _ => rfl) mustBeZero_h_iff⟩

/-- Settles O7. -/
theorem getrReadsRedByReplication : Obligations.GetrReadsRedByReplication := by
  refine ⟨fun s hf hp => ?_, bareReader_faults (i := .getr) (by decide) fun _ => rfl⟩
  rw [exec_getr hf hp, fR, exp5_extractLsb']

/-- Settles O8. -/
theorem getgReadsGreenByReplication : Obligations.GetgReadsGreenByReplication := by
  refine ⟨fun s hf hp => ?_, bareReader_faults (i := .getg) (by decide) fun _ => rfl⟩
  rw [exec_getg hf hp, fG, exp6_extractLsb']

/-- Settles O9. -/
theorem getbReadsBlueByReplication : Obligations.GetbReadsBlueByReplication := by
  refine ⟨fun s hf hp => ?_, bareReader_faults (i := .getb) (by decide) fun _ => rfl⟩
  rw [exec_getb hf hp, fB, exp5_extractLsb']

/-- Settles O10. -/
theorem setrSplicesRedByTruncation : Obligations.SetrSplicesRedByTruncation :=
  ⟨fun _ u hf hp => exec_setr hf hp u,
    pixelReader_faults (i := .setr) (fun _ => rfl) (by decide) (fun _ => rfl) mustBeZero_b_iff⟩

/-- Settles O11. -/
theorem setgSplicesGreenByTruncation : Obligations.SetgSplicesGreenByTruncation :=
  ⟨fun _ u hf hp => exec_setg hf hp u,
    pixelReader_faults (i := .setg) (fun _ => rfl) (by decide) (fun _ => rfl) mustBeZero_b_iff⟩

/-- Settles O12. -/
theorem setbSplicesBlueByTruncation : Obligations.SetbSplicesBlueByTruncation :=
  ⟨fun _ u hf hp => exec_setb hf hp u,
    pixelReader_faults (i := .setb) (fun _ => rfl) (by decide) (fun _ => rfl) mustBeZero_b_iff⟩

/-- Settles O13. -/
theorem packPacksThreeTruncatedChannels : Obligations.PackPacksThreeTruncatedChannels :=
  ⟨fun _ => exec_pack, decode_and_reserved_of_lookupOp (fun _ => rfl) mustBeZero_t_iff⟩

/-- Settles O14. -/
theorem unpkUnpacksThreeChannels : Obligations.UnpkUnpacksThreeChannels := by
  refine ⟨fun s hf hp => ?_, bareReader_faults (i := .unpk) (by decide) fun _ => rfl⟩
  rw [exec_unpk hf hp, fR, fG, fB, exp5_extractLsb', exp6_extractLsb', exp5_extractLsb']

end

/-! ## PACK and UNPK against the single-channel commands (40_pixel_channels.md R122 to R124) -/

section
namespace Sys2Proof.Machine

/-- With PV = 1 already, loading a pixel is writing it. -/
theorem State.setPixel_eq_loadPixel {s : State} (hp : s.pv = true) (v : Half) : s.setPixel v = s.loadPixel v := by
  simp only [State.setPixel, State.loadPixel, hp]

/-- The three sets one after another splice all three fields. -/
theorem execAll_three_sets {s : State} (hf : s.flt = false) (hp : s.pv = true) (r g b : Byte) :
    execAll [.setr r, .setg g, .setb b] s = .next (s.setPixel (packPixel r g b)).respondZero := by
  have hg := exec_setg (s := (s.setPixel (withR s.p (trunc5 r))).respondZero) hf hp g
  have hb := exec_setb (s := (s.setPixel (withG (withR s.p (trunc5 r)) (trunc6 g))).respondZero) hf hp b
  calc execAll [.setr r, .setg g, .setb b] s
      = execAll [.setg g, .setb b] (s.setPixel (withR s.p (trunc5 r))).respondZero :=
        execAll_cons_of_next _ (exec_setr hf hp r)
    _ = execAll [.setb b] (s.setPixel (withG (withR s.p (trunc5 r)) (trunc6 g))).respondZero :=
        execAll_cons_of_next _ hg
    _ = .next (s.setPixel (withB (withG (withR s.p (trunc5 r)) (trunc6 g)) (trunc5 b))).respondZero :=
        (execAll_singleton _ _).trans hb
    _ = .next (s.setPixel (packPixel r g b)).respondZero := by rw [withB_withG_withR]

end Sys2Proof.Machine

open Sys2Proof Sys2Proof.Machine

/-- Settles O15. -/
theorem packEqualsThreeSets : Obligations.PackEqualsThreeSets := by
  refine fun s r g b hf => ⟨fun hp => ?_, fun hp => ⟨exec_of_unset (by decide : 0x0C#8 ∈ pixelReaders) hf hp, ?_⟩⟩
  · rw [execAll_three_sets hf hp, exec_pack r g b hf, State.setPixel_eq_loadPixel hp]
  · exact ⟨_, exec_pack r g b hf, hf⟩

/-- Settles O16. -/
theorem unpkEqualsThreeGets : Obligations.UnpkEqualsThreeGets := fun _ hf hp =>
  ⟨_, _, _, exec_getr hf hp, exec_getg hf hp, exec_getb hf hp, exec_unpk hf hp⟩

/-- Settles O17. -/
theorem packAndUnpackRoundTrip : Obligations.PackAndUnpackRoundTrip := by
  refine ⟨fun s hf hp => ⟨_, _, exec_unpk hf hp, exec_pack _ _ _ hf, ?_⟩, fun s r g b hf => ?_, by decide⟩
  · rw [channelR_of_channels, channelG_of_channels, channelB_of_channels]
    exact packPixel_exp s.p
  · have hunpk := exec_unpk (s := (s.loadPixel (packPixel r g b)).respondZero) hf rfl
    rw [execAll_cons_of_next _ (exec_pack r g b hf), execAll_singleton]
    refine ⟨_, hunpk, ?_⟩
    rw [State.answering_rsp, State.respondZero_p, State.loadPixel_p, fR_packPixel, fG_packPixel, fB_packPixel]

end

/-! ## The two units are independent (40_pixel_channels.md R105, 41_raster_iterator.md R154) -/

section
namespace Sys2Proof.Machine

/-- A change of registers that the halted check does not read and that taking a fault leaves alone. -/
structure PassesChecks (f : State → State) : Prop where
  flt : ∀ s, (f s).flt = s.flt
  respondError : ∀ s, (f s).respondError = f s.respondError
  raise : ∀ s op c, (f s).raise op c = f (s.raise op c)

theorem passesChecks_withIterUnit (w h x y : Half) (iv : Bool) : PassesChecks (·.withIterUnit w h x y iv) :=
  ⟨fun _ => rfl, fun _ => rfl, fun _ _ _ => rfl⟩

theorem passesChecks_withPixelUnit (p : Half) (pv : Bool) : PassesChecks (·.withPixelUnit p pv) :=
  ⟨fun _ => rfl, fun _ => rfl, fun _ _ _ => rfl⟩

section
variable {f go : State → State} {s : State} {op : Byte}

/-- The change may be made before or after a checked command; STAT, which reads every unit, is excepted. -/
theorem PassesChecks.whenRunning (hf : PassesChecks f) (hop : op ≠ 0x30#8) (run : go (f s) = f (go s)) :
    (f s).whenRunning op go = f (s.whenRunning op go) := by
  unfold State.whenRunning
  rw [hf.flt]
  split
  · rw [State.haltedAnswer, State.haltedAnswer, if_neg hop, if_neg hop]
    exact hf.respondError s
  · exact run

/-- The same for a command that reads P, where the change keeps PV. -/
theorem PassesChecks.whenPixel (hf : PassesChecks f) (hop : op ≠ 0x30#8) (hpv : (f s).pv = s.pv)
    (run : go (f s) = f (go s)) : (f s).whenPixel op go = f (s.whenPixel op go) := by
  refine hf.whenRunning hop ?_
  rw [hpv, run, hf.raise]
  exact (apply_ite f _ _ _).symm

/-- The same for a command that reads the iterator, where the change keeps IV. -/
theorem PassesChecks.whenIter (hf : PassesChecks f) (hop : op ≠ 0x30#8) (hiv : (f s).iv = s.iv)
    (run : go (f s) = f (go s)) : (f s).whenIter op go = f (s.whenIter op go) := by
  refine hf.whenRunning hop ?_
  rw [hiv, run, hf.raise]
  exact (apply_ite f _ _ _).symm

end

/-- A pixel command passes the iterator's registers through. -/
theorem exec_withIterUnit {i : Instr} (hi : isPixelCommand i = true) {s t : State} (hexec : exec i s = .next t)
    (w h x y : Half) (iv : Bool) : exec i (s.withIterUnit w h x y iv) = .next (t.withIterUnit w h x y iv) := by
  have hf := passesChecks_withIterUnit w h x y iv
  cases i with
  | pld v | pack r g b =>
    cases hexec
    exact congrArg Host.Outcome.next (hf.whenRunning (by decide) rfl)
  | pldc k =>
    cases hexec
    refine congrArg Host.Outcome.next (hf.whenRunning (by decide) ?_)
    cases constColour Config.colours k <;> rfl
  | prd | peq v | getr | getg | getb | setr u | setg u | setb u | unpk =>
    cases hexec
    exact congrArg Host.Outcome.next (hf.whenPixel (by decide) rfl rfl)
  | iinit | inext | irem | iskip | stat => cases hi

/-- An iterator command passes the pixel unit's registers through. -/
theorem exec_withPixelUnit {i : Instr} (hi : isIterCommand i = true) {s t : State} (hexec : exec i s = .next t)
    (p : Half) (pv : Bool) : exec i (s.withPixelUnit p pv) = .next (t.withPixelUnit p pv) := by
  have hf := passesChecks_withPixelUnit p pv
  cases i with
  | iinit w h =>
    cases hexec
    exact congrArg Host.Outcome.next (hf.whenRunning (by decide) rfl)
  | irem =>
    cases hexec
    exact congrArg Host.Outcome.next (hf.whenIter (by decide) rfl rfl)
  | inext | iskip n =>
    cases hexec
    refine congrArg Host.Outcome.next (hf.whenIter (by decide) rfl ?_)
    rw [apply_ite (State.withPixelUnit · p pv)]
    rfl
  | _ => cases hi

end Sys2Proof.Machine

open Sys2Proof Sys2Proof.Machine

/-- Settles O32: a unit's registers are kept, since replacing them by themselves before the command replaces them after
it. -/
theorem unitsAreIndependent : Obligations.UnitsAreIndependent := by
  refine ⟨fun i s t w h x y iv hi hexec => ⟨exec_withIterUnit hi hexec w h x y iv, ?_⟩,
    fun i s t p pv hi hexec => ⟨exec_withPixelUnit hi hexec p pv, ?_⟩⟩
  · have hself : t = t.withIterUnit s.w s.h s.x s.y s.iv :=
      Host.Outcome.next.inj (hexec.symm.trans (exec_withIterUnit hi hexec s.w s.h s.x s.y s.iv))
    rw [hself]
    exact ⟨rfl, rfl, rfl, rfl, rfl⟩
  · have hself : t = t.withPixelUnit s.p s.pv :=
      Host.Outcome.next.inj (hexec.symm.trans (exec_withPixelUnit hi hexec s.p s.pv))
    rw [hself]
    exact ⟨rfl, rfl⟩

end

/-! ## What each iterator command does in a running block (41_raster_iterator.md R155 to R158) -/

section
namespace Sys2Proof.Machine

variable {s : State}

theorem exec_iinit (w h : Half) (hf : s.flt = false) :
    exec (.iinit w h) s = .next (s.startRaster w h).respondZero :=
  congrArg Host.Outcome.next (State.whenRunning_of_running _ _ hf)

/-- What skipping n coordinates and yielding the next one leaves, for every natural n: ISKIP n is this (`exec_iskip`), and
under INV INEXT is this at 0 (`exec_inext`). -/
def State.skip (s : State) (n : Nat) : State :=
  if s.remaining ≤ n then (s.moveTo (0, s.h.toNat)).respondZero
  else s.yieldAt (rasterCoord s.w.toNat (s.done + n))

theorem State.skip_of_remaining_le {n : Nat} (hn : s.remaining ≤ n) :
    s.skip n = (s.moveTo (0, s.h.toNat)).respondZero := if_pos hn

theorem State.skip_of_lt_remaining {n : Nat} (hn : n < s.remaining) :
    s.skip n = s.yieldAt (rasterCoord s.w.toNat (s.done + n)) := if_neg (Nat.not_le.2 hn)

/-! The commands that read the iterator, in a state with IV = 1. -/

section
variable (hf : s.flt = false) (hi : s.iv = true)
include hf hi

theorem exec_inext_eq_ite : exec .inext s =
    .next (if s.y < s.h then s.yieldAt (s.x.toNat, s.y.toNat) else s.respondZero) :=
  congrArg Host.Outcome.next (State.whenIter_of_valid _ _ hf hi)

theorem exec_irem : exec .irem s = .next (s.answering (BitVec.ofNat 32 s.remaining) false) :=
  congrArg Host.Outcome.next (State.whenIter_of_valid _ _ hf hi)

theorem exec_iskip (n : Word) : exec (.iskip n) s = .next (s.skip n.toNat) :=
  congrArg Host.Outcome.next (State.whenIter_of_valid _ _ hf hi)

end

/-- Yielding a coordinate and advancing past it, in the terms of the statements (R152). -/
theorem State.yieldAt_eq_answering (s : State) (x y : Nat) :
    s.yieldAt (x, y) =
      (if x + 1 = s.w.toNat then { s with x := 0#16, y := BitVec.ofNat 16 (y + 1) }
        else { s with x := BitVec.ofNat 16 (x + 1), y := BitVec.ofNat 16 y }).answering
        (BitVec.ofNat 16 y ++ BitVec.ofNat 16 x) true := by
  rw [State.yieldAt, rasterAdvance]
  split <;> rfl

/-- Writing X and Y as they are changes nothing. -/
theorem State.moveTo_self (s : State) : s.moveTo (s.x.toNat, s.y.toNat) = s := by simp [State.moveTo]

/-! The faults. -/

/-- Every command that reads the iterator faults while IV = 0 (10_state.md R27). -/
theorem exec_of_iter_unset {i : Instr} (hreads : opcodeOf i ∈ iterReaders) (hf : s.flt = false) (hi : s.iv = false) :
    exec i s = .next (s.faulted 5#4 (opcodeOf i)) := by
  cases i with
  | inext | irem | iskip n => exact congrArg Host.Outcome.next (State.whenIter_of_unset _ _ hf hi)
  | _ => simp [opcodeOf, iterReaders] at hreads

/-- The faults and the decoding of a command that reads the iterator and has no operand, format N. -/
theorem bareIterReader_faults {i : Instr} (hreads : opcodeOf i ∈ iterReaders)
    (hmap : ∀ d, lookupOp (opcodeOf i) d = some (.n, i)) :
    (∀ s : State, s.flt = false → s.iv = false → exec i s = .next (s.faulted 5#4 (opcodeOf i))) ∧
    decode (opcodeOf i) 0#32 = .cmd i ∧
    ∀ (s : State) (d : Word), s.flt = false → d ≠ 0#32 →
      perform (opcodeOf i) d s = .next (s.faulted 2#4 (opcodeOf i)) := by
  obtain ⟨hdecode, hreserved⟩ := decode_and_reserved_of_lookupOp hmap mustBeZero_n_iff
  exact ⟨fun s => exec_of_iter_unset hreads, hdecode _ rfl, hreserved⟩

end Sys2Proof.Machine

open Sys2Proof Sys2Proof.Machine

/-- Settles O18. -/
theorem iinitStartsAFreshSequence : Obligations.IinitStartsAFreshSequence :=
  ⟨fun _ w h => exec_iinit w h, rasterInv_start, fun d => decode_eq_cmd_iff.2 ⟨.wh, rfl, (mustBeZero_wide d).1⟩⟩

/-- Settles O19. -/
theorem inextYieldsAndAdvances : Obligations.InextYieldsAndAdvances := by
  refine ⟨fun s hf hi => ?_, bareIterReader_faults (i := .inext) (by decide) fun _ => rfl⟩
  rw [exec_inext_eq_ite hf hi, State.yieldAt_eq_answering]
  simp only [BitVec.lt_def, BitVec.ofNat_add, BitVec.ofNat_toNat, BitVec.setWidth_eq]
  rfl

/-- Settles O20. -/
theorem iremReportsTheExactRemainingCount : Obligations.IremReportsTheExactRemainingCount :=
  ⟨fun _ => exec_irem, bareIterReader_faults (i := .irem) (by decide) fun _ => rfl⟩

/-- Settles O21. -/
theorem iskipSkipsAndYields : Obligations.IskipSkipsAndYields := by
  refine ⟨fun s n done hf hi hdone => ?_, fun s n => exec_of_iter_unset (i := .iskip n) (by decide : 0x23#8 ∈ iterReaders),
    fun d => decode_eq_cmd_iff.2 ⟨.w32, rfl, (mustBeZero_wide d).2⟩⟩
  subst hdone
  rw [exec_iskip hf hi]
  refine ⟨fun hle => ?_, fun x y hlt hx hy => ?_⟩
  · rw [State.skip_of_remaining_le hle, State.moveTo, BitVec.ofNat_toNat, BitVec.setWidth_eq]
    rfl
  · rw [State.skip_of_lt_remaining hlt, ← State.yieldAt_eq_answering, hx, hy]
    rfl

end

/-! ## Skipping composes, and INEXT is skipping none (41_raster_iterator.md R160 to R164) -/

section
namespace Sys2Proof.Machine

/-! Positions of the raster fit their registers (R164). -/

theorem rasterAdvance_lt {w h : Half} {x y : Nat} (hx : x < w.toNat) (hy : y < h.toNat) :
    (rasterAdvance w.toNat x y).1 < 2 ^ 16 ∧ (rasterAdvance w.toNat x y).2 < 2 ^ 16 := by
  have hw := w.isLt
  have hh := h.isLt
  rw [rasterAdvance]
  split
  · exact ⟨by norm_num, by dsimp only; omega⟩
  · exact ⟨by dsimp only; omega, by dsimp only; omega⟩

variable {s : State}

/-- An offset below the size of the raster is reached by fewer skips than remain (R151). -/
theorem State.done_add_lt {n : Nat} (hn : n < s.remaining) : s.done + n < s.w.toNat * s.h.toNat := by
  have hr : s.remaining = s.w.toNat * s.h.toNat - s.done := rfl
  omega

/-- Under INV nothing remains in the terminal row only (R151). -/
theorem State.remaining_eq_zero_iff (hinv : rasterInv s.w s.h s.x s.y) : s.remaining = 0 ↔ s.y = s.h := by
  obtain ⟨hle, hterminal⟩ := rasterDone_le hinv
  rw [← hterminal, State.remaining, rasterRemaining]
  omega

/-! What a skip leaves. -/

/-- A skip writes X, Y and the response only. -/
theorem State.skip_frame (s : State) (n : Nat) :
    s.skip n = { s with x := (s.skip n).x, y := (s.skip n).y, rsp := (s.skip n).rsp } := by
  unfold State.skip
  split <;> rfl

@[simp] theorem State.skip_w (s : State) (n : Nat) : (s.skip n).w = s.w := by rw [s.skip_frame n]

@[simp] theorem State.skip_h (s : State) (n : Nat) : (s.skip n).h = s.h := by rw [s.skip_frame n]

@[simp] theorem State.skip_iv (s : State) (n : Nat) : (s.skip n).iv = s.iv := by rw [s.skip_frame n]

@[simp] theorem State.skip_flt (s : State) (n : Nat) : (s.skip n).flt = s.flt := by rw [s.skip_frame n]

/-- A skip's response is None at the end of the sequence, and the skipped-to coordinate before it. -/
theorem State.skip_rsp (s : State) (n : Nat) :
    (s.skip n).rsp = if n < s.remaining then
        some ⟨false, true, BitVec.ofNat 16 ((s.done + n) / s.w.toNat) ++ BitVec.ofNat 16 ((s.done + n) % s.w.toNat)⟩
      else some ⟨false, false, 0#32⟩ := by
  split
  · rw [State.skip_of_lt_remaining ‹_›]; rfl
  · rw [State.skip_of_remaining_le (Nat.not_lt.1 ‹_›)]; rfl

/-- A skip responds Some exactly when it skips fewer coordinates than remain. -/
theorem State.exists_skip_rsp (s : State) (n : Nat) :
    ∃ r : Response, (s.skip n).rsp = some r ∧ (r.f = true ↔ n < s.remaining) := by
  rw [State.skip_rsp]
  split
  · exact ⟨_, rfl, iff_of_true rfl ‹_›⟩
  · exact ⟨_, rfl, iff_of_false nofun ‹_›⟩

/-- Every skip leaves a position that satisfies INV. -/
theorem rasterInv_skip (s : State) (n : Nat) : rasterInv s.w s.h (s.skip n).x (s.skip n).y := by
  rcases Nat.lt_or_ge n s.remaining with hn | hn
  · obtain ⟨-, hx, hy⟩ := rasterCoord_inside (State.done_add_lt hn)
    rw [State.skip_of_lt_remaining hn]
    exact rasterInv_advance hx hy
  · rw [State.skip_of_remaining_le hn]
    simpa using rasterInv_terminal s.w s.h

/-- A skip that yields moves the linear offset one past the skipped coordinates (R152). -/
theorem State.done_skip {n : Nat} (hn : n < s.remaining) : (s.skip n).done = s.done + n + 1 := by
  obtain ⟨-, hx, hy⟩ := rasterCoord_inside (State.done_add_lt hn)
  obtain ⟨hx', hy'⟩ := rasterAdvance_lt hx hy
  rw [State.skip_of_lt_remaining hn, State.done, State.yieldAt_w, State.yieldAt_x, State.yieldAt_y,
    BitVec.toNat_ofNat, BitVec.toNat_ofNat, rasterCoord, Nat.mod_eq_of_lt hx', Nat.mod_eq_of_lt hy',
    rasterDone_advance, rasterDone_coord]

/-- A skip takes the skipped coordinates and the yielded one off the remaining count, down to 0 (R162). -/
theorem State.remaining_skip (s : State) (n : Nat) : (s.skip n).remaining = s.remaining - (n + 1) := by
  have hr : (s.skip n).remaining = s.w.toNat * s.h.toNat - (s.skip n).done := by
    simp [State.remaining, State.done, rasterRemaining]
  rcases Nat.lt_or_ge n s.remaining with hn | hn
  · have hs : s.remaining = s.w.toNat * s.h.toNat - s.done := rfl
    rw [hr, State.done_skip hn]
    omega
  · have hdone : (s.skip n).done = s.w.toNat * s.h.toNat := by
      rw [State.skip_of_remaining_le hn]
      simp [State.done, rasterDone, Nat.mul_comm]
    omega

/-- Skips compose: k skipped and one yielded, then m skipped, is k + m + 1 skipped. -/
theorem State.skip_skip (s : State) (k m : Nat) : (s.skip k).skip m = s.skip (k + m + 1) := by
  have hrem := s.remaining_skip k
  rcases Nat.lt_or_ge (k + m + 1) s.remaining with hn | hn
  · have hoff : (s.skip k).done + m = s.done + (k + m + 1) := by
      rw [State.done_skip (by omega)]; omega
    rw [State.skip_of_lt_remaining hn, State.skip_of_lt_remaining (by omega), hoff, State.skip_w, s.skip_frame k]
    rfl
  · rw [State.skip_of_remaining_le hn, State.skip_of_remaining_le (by omega), State.skip_h, s.skip_frame k]
    rfl

/-! INEXT. -/

/-- Under INV, INEXT skips no coordinate and yields the next one. -/
theorem exec_inext (hf : s.flt = false) (hi : s.iv = true) (hinv : rasterInv s.w s.h s.x s.y) :
    exec .inext s = .next (s.skip 0) := by
  obtain ⟨hle, hrow, hterminal⟩ := (rasterInv_iff _ _ _ _).1 hinv
  have hrem := State.remaining_eq_zero_iff hinv
  rw [exec_inext_eq_ite hf hi]
  congr 1
  split
  · rename_i hy
    have hne : s.y ≠ s.h := fun h => absurd hy (by simp [h])
    rw [State.skip_of_lt_remaining (Nat.pos_of_ne_zero (hrem.not.2 hne)), Nat.add_zero, State.done,
      rasterCoord_done (hrow hy)]
  · rename_i hy
    have hyh : s.y.toNat = s.h.toNat := Nat.le_antisymm hle (Nat.not_lt.1 hy)
    rw [State.skip_of_remaining_le (hrem.2 (BitVec.eq_of_toNat_eq hyh)).le, ← hterminal hyh, ← hyh, State.moveTo_self]

/-- k + 1 INEXT commands are a skip of k, by induction on k. -/
theorem execAll_inext (k : Nat) (hf : s.flt = false) (hi : s.iv = true) (hinv : rasterInv s.w s.h s.x s.y) :
    execAll (List.replicate (k + 1) .inext) s = .next (s.skip k) := by
  induction k generalizing s with
  | zero => exact (execAll_singleton _ _).trans (exec_inext hf hi hinv)
  | succ k ih =>
    have hinv' : rasterInv (s.skip 0).w (s.skip 0).h (s.skip 0).x (s.skip 0).y := by
      rw [State.skip_w, State.skip_h]
      exact rasterInv_skip s 0
    calc execAll (List.replicate (k + 2) .inext) s
        = execAll (List.replicate (k + 1) .inext) (s.skip 0) := execAll_cons_of_next _ (exec_inext hf hi hinv)
      _ = .next ((s.skip 0).skip k) := ih ((s.skip_flt 0).trans hf) ((s.skip_iv 0).trans hi) hinv'
      _ = .next (s.skip (k + 1)) := by rw [State.skip_skip, Nat.zero_add]

/-- A halted block answers any number of INEXT commands by the error response (60_exceptions.md R205). -/
theorem execAll_inext_of_halted (k : Nat) (hf : s.flt = true) :
    execAll (List.replicate (k + 1) .inext) s = .next s.erroring := by
  induction k generalizing s with
  | zero => exact (execAll_singleton _ _).trans (exec_of_halted .inext hf)
  | succ k ih => exact (execAll_cons_of_next _ (exec_of_halted .inext hf)).trans (ih hf)

/-- A fresh sequence starts at offset 0, width 0 included (R155). -/
theorem State.done_startRaster (s : State) (w h : Half) : (s.startRaster w h).done = 0 := by
  rw [State.done, State.startRaster_w, State.startRaster_x, State.startRaster_y, startRow, rasterDone]
  split
  · simp [*]
  · simp

/-- The coordinates of a raster are numbered by their linear offsets (R150, R153). -/
theorem existsUnique_offset {w h x y : Nat} (hx : x < w) (hy : y < h) :
    ∃! k, k < w * h ∧ k % w = x ∧ k / w = y := by
  obtain ⟨hmod, hdiv⟩ := Prod.mk.inj (rasterCoord_done (y := y) hx)
  refine ⟨rasterDone w x y, ⟨?_, hmod, hdiv⟩, ?_⟩
  · rw [Nat.mul_comm]
    exact (Nat.div_lt_iff_lt_mul (Nat.zero_lt_of_lt hx)).1 (hdiv.trans_lt hy)
  · rintro k ⟨-, rfl, rfl⟩
    exact (rasterDone_coord w k).symm

/-- Under INV the remaining count of 32-bit words is the exact one: no product or sum reaches 2 ^ 32 (R164). -/
theorem toNat_remaining_word {w h x y : Half} (hinv : rasterInv w h x y) :
    (w.setWidth 32 * h.setWidth 32 - (y.setWidth 32 * w.setWidth 32 + x.setWidth 32) : Word).toNat
      = rasterRemaining w.toNat h.toNat x.toNat y.toNat := by
  have hsize := rasterSize_le w h
  have hdone : y.toNat * w.toNat + x.toNat ≤ w.toNat * h.toNat := (rasterDone_le hinv).1
  have hprod : (w.setWidth 32 * h.setWidth 32 : Word).toNat = w.toNat * h.toNat := by
    simp only [BitVec.toNat_mul, BitVec.toNat_setWidth_of_le (show 16 ≤ 32 by norm_num)]
    exact Nat.mod_eq_of_lt (by omega)
  have hsum : (y.setWidth 32 * w.setWidth 32 + x.setWidth 32 : Word).toNat = y.toNat * w.toNat + x.toNat := by
    simp only [BitVec.toNat_add, BitVec.toNat_mul, BitVec.toNat_setWidth_of_le (show 16 ≤ 32 by norm_num),
      Nat.mod_add_mod]
    exact Nat.mod_eq_of_lt (by omega)
  rw [BitVec.toNat_sub_of_le (by rw [BitVec.le_def, hprod, hsum]; exact hdone), hprod, hsum]
  rfl

end Sys2Proof.Machine

open Sys2Proof Sys2Proof.Machine

/-- Settles O22: after IINIT the k-th INEXT is a skip of k from offset 0. -/
theorem sequenceVisitsEveryCoordinateOnceInOrder : Obligations.SequenceVisitsEveryCoordinateOnceInOrder := by
  refine ⟨fun s w h k hf => ⟨((s.startRaster w h).respondZero).skip k, ?_, ?_⟩, fun w h x y => existsUnique_offset⟩
  · exact (execAll_cons_of_next _ (exec_iinit w h hf)).trans (execAll_inext k hf rfl (rasterInv_start w h))
  · have hdone : ((s.startRaster w h).respondZero).done = 0 := s.done_startRaster w h
    have hrem : ((s.startRaster w h).respondZero).remaining = w.toNat * h.toNat := congrArg (w.toNat * h.toNat - ·) hdone
    rw [State.skip_rsp, hrem, hdone, Nat.zero_add]
    rfl

/-- Settles O23. -/
theorem skipEqualsRepeatedNext : Obligations.SkipEqualsRepeatedNext := by
  intro s n hi hinv
  cases hf : s.flt with
  | false => rw [execAll_inext _ hf hi hinv, exec_iskip hf hi]
  | true => rw [execAll_inext_of_halted _ hf, exec_of_halted _ hf]; rfl

/-- Settles O24: ISKIP n, INEXT and a run of INEXT are all skips. -/
theorem remainingCountsTheFurtherYields : Obligations.RemainingCountsTheFurtherYields := by
  intro s hf hi hinv
  have hcount (n : Nat) : ∃ r : Response, (s.skip n).rsp = some r ∧
      (r.f = true → (s.skip n).remaining + (n + 1) = s.remaining) ∧ (r.f = false → (s.skip n).remaining = 0) := by
    obtain ⟨r, hr, hyield⟩ := s.exists_skip_rsp n
    rw [s.remaining_skip n]
    refine ⟨r, hr, fun h => ?_, fun h => ?_⟩
    · have := hyield.1 h
      omega
    · have := hyield.not.1 (by simp [h])
      omega
  refine ⟨fun n => ?_, ?_, fun k => ?_⟩
  · exact ⟨_, (hcount n.toNat).imp fun _ h => ⟨exec_iskip hf hi n, h⟩⟩
  · exact ⟨_, (hcount 0).imp fun _ h => ⟨exec_inext hf hi hinv, h⟩⟩
  · exact ⟨_, (s.exists_skip_rsp k).imp fun _ h => ⟨execAll_inext k hf hi hinv, h⟩⟩

/-- Settles O25. -/
theorem skipZeroIsNext : Obligations.SkipZeroIsNext := by
  refine fun s => ⟨fun hi hinv => ?_, fun hf hi => ⟨?_, ?_⟩⟩
  · rw [← skipEqualsRepeatedNext s 0#32 hi hinv]
    exact execAll_singleton .inext s
  · exact exec_of_iter_unset (by decide : 0x23#8 ∈ iterReaders) hf hi
  · exact exec_of_iter_unset (by decide : 0x21#8 ∈ iterReaders) hf hi

/-- Settles O26. -/
theorem rasterArithmeticNeverWraps : Obligations.RasterArithmeticNeverWraps := by
  intro w h x y hinv
  obtain ⟨hle, hterminal⟩ := rasterDone_le hinv
  refine ⟨rasterSize_le w h, hle, toNat_remaining_word hinv, ?_, ?_⟩
  · rw [← hterminal, rasterRemaining]
    omega
  · rintro n off cx cy hn hoff rfl rfl
    have hlt : off < w.toNat * h.toNat := by
      rw [rasterRemaining] at hn
      omega
    obtain ⟨hw, hx, hy⟩ := rasterCoord_inside hlt
    obtain ⟨hx', hy'⟩ := rasterAdvance_lt hx hy
    have hinverse : rasterDone w.toNat (off % w.toNat) (off / w.toNat) = off := rasterDone_coord _ _
    exact ⟨hw, hlt, hx, hy, hinverse, Nat.le_of_lt_succ hx', Nat.le_of_lt_succ hy',
      (rasterDone_advance _ _ _).trans (congrArg (· + 1) hinverse)⟩

end

/-! ## STAT, and the words a halted block is given (42_control.md R180, 60_exceptions.md R205) -/

section
namespace Sys2Proof.Machine

theorem State.refuseWord_of_halted {s : State} (op : Byte) (c : FaultCode) (h : s.flt = true) :
    s.refuseWord op c = s.haltedAnswer op := State.whenRunning_of_halted op _ h

/-- A halted block answers every word by the halted answer, whether it decodes to a command or to a fault: D is not looked at. -/
theorem perform_of_halted (op : Byte) (d : Word) {s : State} (h : s.flt = true) :
    perform op d s = .next (s.haltedAnswer op) := by
  cases hdec : decode op d with
  | cmd i => rw [perform_of_cmd s hdec, exec_of_halted i h, opcodeOf_of_decode hdec]
  | fault c => rw [perform_of_fault s hdec, State.refuseWord_of_halted op c h]

end Sys2Proof.Machine

open Sys2Proof Sys2Proof.Machine

/-- Settles O27: running, STAT is a command of format N; halted, the halted answer to STAT's OP is STATUS. -/
theorem statReadsStatusEvenWhenHalted : Obligations.StatReadsStatusEvenWhenHalted := by
  obtain ⟨hdecode, hreserved⟩ :=
    decode_and_reserved_of_lookupOp (op := 0x30#8) (g := fun _ => .stat) (fun _ => rfl) mustBeZero_n_iff
  exact ⟨exec_stat, hdecode _ rfl, hreserved, fun _ d => perform_of_halted 0x30#8 d⟩

end

/-! ## Which fault a word raises in a running block, and what a halted one answers (60_exceptions.md R201 to R208) -/

section
namespace Sys2Proof.Machine

/-! The two decode faults in the terms of R202. -/

/-- The OPs the decoder does not know are those R84 reserves. -/
theorem reservedOp_eq_true_iff (op : Byte) (d : Word) : reservedOp op = true ↔ lookupOp op d = none := by
  have hknown : (opFormats.any fun entry => op == entry.1) = true ↔ ∃ f, (op, f) ∈ opFormats := by simp
  rw [lookupOp_eq_none_iff, ← not_exists, ← hknown, opFormats_any_op, Bool.not_eq_true, Bool.not_eq_false']

/-- On a line of the opcode map OP is not reserved, and the reserved bits of D are the must-be-zero bits of its format. -/
theorem reserved_of_lookupOp {op : Byte} {d : Word} {f : Format} {i : Instr} (h : lookupOp op d = some (f, i)) :
    ¬reservedOp op = true ∧ (reservedBitSet op d = true ↔ d &&& mustBeZero f ≠ 0#32) := by
  have hall : ∀ entry ∈ opFormats, (reservedBitSet entry.1 d = true ↔ d &&& mustBeZero entry.2 ≠ 0#32) := by
    simp [opFormats, reservedBitSet, mustBeZero_h_iff, mustBeZero_b_iff, mustBeZero_k_iff, mustBeZero_t_iff,
      mustBeZero_n_iff, mustBeZero_wide]
  exact ⟨by simp [reservedOp_eq_true_iff op d, h], hall (op, f) ((exists_lookupOp_iff op d f).1 ⟨i, h⟩)⟩

/-- A word that decodes to a fault is expected to raise it: the decode faults come first in R204's order. -/
theorem expectedFault_of_decode_fault {op : Byte} {d : Word} {c : FaultCode} (h : decode op d = .fault c) (pv iv : Bool) :
    expectedFault op d pv iv = faultNumber c := by
  rcases decode_fault_cases h with ⟨rfl, hnone⟩ | ⟨rfl, f, i, hsome, hbits⟩
  · rw [expectedFault, if_pos ((reservedOp_eq_true_iff op d).2 hnone)]
    rfl
  · obtain ⟨hop, hbit⟩ := reserved_of_lookupOp hsome
    rw [expectedFault, if_neg hop, if_pos (hbit.2 hbits)]
    rfl

/-! The value faults, and the commands that meet none. -/

/-- A word that decodes to a command has the command's operand word (30_encoding.md R86). -/
theorem operandOf_of_decode {op : Byte} {d : Word} {i : Instr} (h : decode op d = .cmd i) : operandOf i = d := by
  obtain ⟨f, hlookup, hbits⟩ := decode_eq_cmd_iff.1 h
  exact operandOf_of_lookupOp hlookup hbits

/-- The table has an entry for every index up to WHITE, 8 (40_pixel_channels.md R104). -/
theorem exists_constColour (table : ColourTable) {k : BitVec 4} (h : ¬8#4 < k) : ∃ v, constColour table k = some v := by
  unfold constColour
  split
  case h_10 =>
    simp only [imp_false] at *
    bv_omega
  all_goals exact ⟨_, rfl⟩

/-- An effect that leaves the block running is an answer without error, and the fault state stays. -/
theorem Effect.answer_of_running {op : Byte} {s t : State} (he : Effect op s t) (hf : t.flt = false) :
    t.fcode = s.fcode ∧ t.fop = s.fop ∧ ∃ r, t.rsp = some r ∧ r.err = false := by
  cases he with
  | halted run =>
    obtain ⟨r, hr⟩ := s.haltedAnswer_frame op
    simp [hr, run] at hf
  | fault c => cases hf
  | answer | load | splice | start | move => exact ⟨rfl, rfl, _, rfl, rfl⟩

/-- PLDC, the command of OP 0x03, faults on an index past the table (40_pixel_channels.md R112). -/
theorem exec_of_no_entry {i : Instr} {s : State} (hop : opcodeOf i = 0x03#8) (hk : 8#4 < (operandOf i).extractLsb' 0 4)
    (hf : s.flt = false) : exec i s = .next (s.faulted 3#4 (opcodeOf i)) := by
  cases i with
  | pldc k => exact execPldcWith_of_no_entry hf (constColour_eq_none _ (constIndexOf_append k ▸ hk))
  | _ => cases hop

/-- A command whose index has an entry and whose unit is set leaves a running block running. -/
theorem exec_keeps_running {i : Instr} {s : State} (hf : s.flt = false)
    (hconst : opcodeOf i = 0x03#8 → ¬8#4 < (operandOf i).extractLsb' 0 4)
    (hp : opcodeOf i ∈ pixelReaders → s.pv = true) (hi : opcodeOf i ∈ iterReaders → s.iv = true) :
    ∃ t, exec i s = .next t ∧ t.flt = false := by
  cases i with
  | pld | pack | iinit | stat => exact ⟨_, congrArg Host.Outcome.next (State.whenRunning_of_running _ _ hf), hf⟩
  | pldc k =>
    have hk : ¬8#4 < k := constIndexOf_append k ▸ hconst rfl
    obtain ⟨v, hv⟩ := exists_constColour Config.colours hk
    exact ⟨_, execPldcWith_of_entry hf hv, hf⟩
  | prd | peq | getr | getg | getb | setr | setg | setb | unpk =>
    exact ⟨_, congrArg Host.Outcome.next (State.whenPixel_of_valid _ _ hf (hp (by simp [opcodeOf, pixelReaders]))), hf⟩
  | inext =>
    refine ⟨_, exec_inext_eq_ite hf (hi (by decide)), ?_⟩
    split <;> exact hf
  | irem => exact ⟨_, exec_irem hf (hi (by decide)), hf⟩
  | iskip n => exact ⟨_, exec_iskip hf (hi (by simp [opcodeOf, iterReaders])) n, (s.skip_flt _).trans hf⟩

/-- What is asked of a word's outcome when `code` is the fault it is expected to raise, 0 for none (R201). -/
def RaisesExactly (code : BitVec 4) (op : Byte) (s : State) (o : Host.Outcome State Fault Refusal) : Prop :=
  (code ≠ 0#4 → o = .next (s.faulted code op)) ∧
  (code = 0#4 → ∃ (t : State) (r : Response), o = .next t ∧ t.flt = false ∧ t.fcode = s.fcode ∧ t.fop = s.fop ∧
    t.rsp = some r ∧ r.err = false)

theorem RaisesExactly.fault {code : BitVec 4} (hcode : code ≠ 0#4) (op : Byte) (s : State) :
    RaisesExactly code op s (.next (s.faulted code op)) := ⟨fun _ => rfl, fun h => absurd h hcode⟩

/-- A command that leaves the block running has answered without error. -/
theorem RaisesExactly.answer {i : Instr} {s t : State} (ht : exec i s = .next t) (hf : t.flt = false) :
    RaisesExactly 0#4 (opcodeOf i) s (exec i s) := by
  obtain ⟨u, hu, he⟩ := exec_effect i s
  cases hu.symm.trans ht
  obtain ⟨hfcode, hfop, r, hr, herr⟩ := he.answer_of_running hf
  exact ⟨fun h => absurd rfl h, fun _ => ⟨t, r, ht, hf, hfcode, hfop, hr, herr⟩⟩

/-- No fault is numbered 0 (R202). -/
theorem faultNumber_ne_zero (c : FaultCode) : faultNumber c ≠ 0#4 := by cases c <;> decide

/-- In a running block a command raises exactly the fault its word is expected to raise: its word meets no decode fault, and
the three value faults are tried in R204's order. -/
theorem exec_raisesExactly (i : Instr) {s : State} (hf : s.flt = false) :
    RaisesExactly (expectedFault (opcodeOf i) (operandOf i) s.pv s.iv) (opcodeOf i) s (exec i s) := by
  obtain ⟨f, hlookup, hbits⟩ := lookupOp_operandOf i
  obtain ⟨hop, hbit⟩ := reserved_of_lookupOp hlookup
  rw [expectedFault, if_neg hop, if_neg fun h => hbit.1 h hbits]
  split_ifs with hconst hpixel hiter
  · rw [exec_of_no_entry hconst.1 hconst.2 hf]
    exact .fault (by decide) _ s
  · rw [exec_of_unset hpixel.1 hf hpixel.2]
    exact .fault (by decide) _ s
  · rw [exec_of_iter_unset hiter.1 hf hiter.2]
    exact .fault (by decide) _ s
  · obtain ⟨t, ht, hrun⟩ := exec_keeps_running hf (not_and.1 hconst) (by simpa using hpixel) (by simpa using hiter)
    exact .answer ht hrun

end Sys2Proof.Machine

open Sys2Proof Sys2Proof.Machine

/-- Settles O41: a word that decodes to a fault raises it; one that decodes to a command is that command's word. -/
theorem faultsAreExactlyTheNamedOnes : Obligations.FaultsAreExactlyTheNamedOnes := by
  intro op d s hf
  change RaisesExactly (expectedFault op d s.pv s.iv) op s (perform op d s)
  cases hd : decode op d with
  | fault c =>
    rw [expectedFault_of_decode_fault hd, perform_of_fault s hd, State.refuseWord_of_running op c hf]
    exact .fault (faultNumber_ne_zero c) op s
  | cmd i =>
    rw [perform_of_cmd s hd, ← opcodeOf_of_decode hd, ← operandOf_of_decode hd]
    exact exec_raisesExactly i hf

/-- Settles O42: words and commands get the halted answer, and a step that is no reset keeps FLT (O43). -/
theorem haltedBlockAnswersOnlyStat : Obligations.HaltedBlockAnswersOnlyStat := by
  refine ⟨fun op d _ hf => perform_of_halted op d hf, fun i s hf => ?_, fun s t hf hstep hrun => ?_⟩
  · have hstat : opcodeOf i = 0x30#8 ↔ i = .stat := ⟨eq_stat_of_opcodeOf, fun h => h ▸ rfl⟩
    rw [exec_of_halted i hf, State.haltedAnswer_eq]
    simp only [hstat]
  · by_contra hno
    obtain ⟨-, -, hkept⟩ := onlyResetClearsTheStickyState s t hstep fun m later hhost =>
      Bool.eq_false_iff.2 fun hrst => hno ⟨m, later, hhost, hrst⟩
    cases (hkept hf).1.symm.trans hrun

end

/-! ## Every step goes on (70_reset_and_hazards.md R238), and when a run of words has faulted (R240) -/

section
namespace Sys2Proof.Machine

/-- Whatever the table and whatever is driven, a moment leaves a next state: it resets, performs a word or writes no register. -/
theorem onDriveWith_next (table : ColourTable) (m : HostDrive) (s : State) : ∃ t, onDriveWith table m s = .next t := by
  cases hr : m.rst with
  | true => exact ⟨_, onDriveWith_of_reset table s hr⟩
  | false =>
    by_cases hno : s.rsp ≠ none ∨ m.cmdValid = false
    · obtain hwait | hdeliver := onDriveWith_of_no_accept table hr hno
      · exact ⟨_, hwait⟩
      · exact ⟨_, hdeliver⟩
    · obtain ⟨hready, hvalid⟩ := not_or.1 hno
      obtain ⟨t, ht, -⟩ := performWith_effect table m.cmdOp m.cmdD s
      exact ⟨t, (onDriveWith_of_accept table hr (Bool.of_not_eq_false hvalid) (not_not.1 hready)).trans ht⟩

/-- A performed word leaves the block halted exactly when it was halted before or the word's response has `rsp_err` = 1. A halted
block may answer without error (STAT), so the response alone does not tell. -/
theorem Effect.flt_iff {op : Byte} {s t : State} (he : Effect op s t) :
    ∃ r, t.rsp = some r ∧ (t.flt = true ↔ s.flt = true ∨ r.err = true) := by
  cases he with
  | halted run =>
    obtain ⟨r, hr⟩ := s.haltedAnswer_frame op
    exact ⟨r, by rw [hr], by simp [hr, run]⟩
  | fault c run => exact ⟨_, rfl, by simp⟩
  | answer d f run | load v run who | splice v run valid who | start w h run who | move xy d f run valid who keeps =>
    exact ⟨_, rfl, by simp [run]⟩

/-- A run whose first word is performed and answered. -/
theorem runWords_cons {cw : CmdWord} {rest : List CmdWord} {s t u : State} {r : Response} {rs : List Response}
    (hperform : perform (cmdOp cw) (cmdD cw) s = .next t) (hrsp : t.rsp = some r)
    (hrest : runWords rest t.deliver = some (rs, u)) : runWords (cw :: rest) s = some (r :: rs, u) := by
  simp [runWords, hperform, hrsp, hrest]

/-- A run from any state with nothing pending, halted or not: one response per word, nothing pending at the end, and the block
halted exactly when it was halted at the start or some response has `rsp_err` = 1. -/
theorem runWords_spec (cws : List CmdWord) (s : State) (hrsp : s.rsp = none) :
    ∃ (rs : List Response) (t : State), runWords cws s = some (rs, t) ∧ rs.length = cws.length ∧ t.rsp = none ∧
      (t.flt = true ↔ s.flt = true ∨ ∃ r ∈ rs, r.err = true) := by
  induction cws generalizing s with
  | nil => exact ⟨[], s, rfl, rfl, hrsp, by simp⟩
  | cons cw rest ih =>
    obtain ⟨t, hperform, he⟩ := perform_effect (cmdOp cw) (cmdD cw) s
    obtain ⟨r, hr, hflt⟩ := he.flt_iff
    obtain ⟨rs, u, hrest, hlength, hpending, hend⟩ := ih t.deliver rfl
    refine ⟨r :: rs, u, runWords_cons hperform hr hrest, congrArg (· + 1) hlength, hpending, ?_⟩
    rw [hend, State.deliver_flt, hflt, List.exists_mem_cons_iff, or_assoc]

end Sys2Proof.Machine

open Sys2Proof.Machine

/-- Settles O50: the host drives nothing, or a moment that leaves a next state. -/
theorem everyStepAnswersANextState : Obligations.EveryStepAnswersANextState := by
  intro s
  rcases hh : s.host with _ | ⟨m, later⟩
  · exact ⟨s, step_of_idle hh⟩
  · rw [step_of_drive hh]
    exact onDriveWith_next _ m _

/-- Settles O51: a run from a running block is halted at the end only by one of its responses. -/
theorem runHasFaultedExactlyWhenFltIsSet : Obligations.RunHasFaultedExactlyWhenFltIsSet := by
  intro cws s hf hrsp
  obtain ⟨rs, t, hrun, hlength, hpending, hend⟩ := runWords_spec cws s hrsp
  exact ⟨rs, t, hrun, hlength, hpending, by simp [hend, hf]⟩

end
